-- ==== Sys2Proof/Word.lean ====
section
/-! DEFINITION. The widths the spec gives its values (00_scope.md R5: every value of this machine is
unsigned). Nothing here computes: fields, extensions and byte order stand in Decode.lean and Machine/. -/

namespace Sys2Proof

/-- A memory byte, a general register, a timer or an 8-bit immediate. -/
abbrev Byte := BitVec 8

/-- An instruction word, the program counter, the index register or a return address. -/
abbrev Word := BitVec 16

/-- A 4-bit field: an immediate count, a key code, the stack pointer. -/
abbrev Nibble := BitVec 4

/-- The number of a general register (10_state.md R11: sixteen, all legal in every field). -/
abbrev Reg := BitVec 4

/-- The 12-bit address immediate `NNN` (30_encoding.md R61). -/
abbrev Addr12 := BitVec 12

end Sys2Proof
end

