-- ==== Sys2Proof/Syntax.lean ====
section
/-! DEFINITION. The instruction set: one constructor for each of the 32 rows of spec/opcode_table.json
(30_encoding.md R65), with the fields its format gives it (R61, R62). A field carries its width in its
type, so no instruction names a register or an immediate that the encoding does not have. -/

namespace Sys2Proof

inductive Instr where
  /-- `00E0`: clear the frame buffer. -/
  | cls
  /-- `00EE`: return. -/
  | ret
  /-- `1NNN`: jump. -/
  | jp (nnn : Addr12)
  /-- `2NNN`: call. -/
  | call (nnn : Addr12)
  /-- `3XNN`: skip if V[X] = NN. -/
  | seNn (x : Reg) (nn : Byte)
  /-- `4XNN`: skip if V[X] is not NN. -/
  | sneNn (x : Reg) (nn : Byte)
  /-- `5XYn`: skip if V[X] = V[Y]; the low nibble is ignored (R69) and kept so that the word can be written back. -/
  | seVy (x y : Reg) (ignored : Nibble)
  /-- `6XNN`: load an immediate. -/
  | ldNn (x : Reg) (nn : Byte)
  /-- `7XNN`: add an immediate. -/
  | addNn (x : Reg) (nn : Byte)
  /-- `8XY0`: copy. -/
  | ldVy (x y : Reg)
  /-- `8XY1` -/
  | orVy (x y : Reg)
  /-- `8XY2` -/
  | andVy (x y : Reg)
  /-- `8XY3` -/
  | xorVy (x y : Reg)
  /-- `8XY4`: add, VF the carry. -/
  | addVy (x y : Reg)
  /-- `8XY5`: subtract, VF not-borrow. -/
  | sub (x y : Reg)
  /-- `8XY6`: shift right by one, VF the bit shifted out. -/
  | shr (x y : Reg)
  /-- `8XY7`: reverse subtract, VF not-borrow. -/
  | subn (x y : Reg)
  /-- `8XYE`: shift left by one, VF the bit shifted out. -/
  | shl (x y : Reg)
  /-- `9XYn`: skip if V[X] is not V[Y]; the low nibble is ignored (R69). -/
  | sneVy (x y : Reg) (ignored : Nibble)
  /-- `ANNN`: load the index register. -/
  | ldI (nnn : Addr12)
  /-- `BNNN`: jump to NNN + V[0]. -/
  | jpV0 (nnn : Addr12)
  /-- `DXYN`: draw an 8 x N sprite. -/
  | drw (x y : Reg) (n : Nibble)
  /-- `EX9E`: skip if the pressed key is V[X]. -/
  | skp (x : Reg)
  /-- `EXA1`: skip unless the pressed key is V[X]. -/
  | sknp (x : Reg)
  /-- `FX07`: V[X] from the delay timer. -/
  | ldVxDt (x : Reg)
  /-- `FX0A`: wait for a key. -/
  | ldVxK (x : Reg)
  /-- `FX15`: the delay timer from V[X]. -/
  | ldDtVx (x : Reg)
  /-- `FX18`: the sound timer from V[X]. -/
  | ldStVx (x : Reg)
  /-- `FX1E`: I from I + V[X]. -/
  | addI (x : Reg)
  /-- `FX33`: the three decimal digits of V[X]. -/
  | bcd (x : Reg)
  /-- `FX55`: store V[0] to V[X] at I. -/
  | store (x : Reg)
  /-- `FX65`: load V[0] to V[X] from I. -/
  | load (x : Reg)
  deriving DecidableEq, Repr

/-- The row of spec/opcode_table.json an instruction stands for, by its unique id (30_encoding.md R71). -/
def Instr.mnemonic : Instr → String
  | .cls => "CLS"
  | .ret => "RET"
  | .jp _ => "JP"
  | .call _ => "CALL"
  | .seNn _ _ => "SE_NN"
  | .sneNn _ _ => "SNE_NN"
  | .seVy _ _ _ => "SE_VY"
  | .ldNn _ _ => "LD_NN"
  | .addNn _ _ => "ADD_NN"
  | .ldVy _ _ => "LD_VY"
  | .orVy _ _ => "OR"
  | .andVy _ _ => "AND"
  | .xorVy _ _ => "XOR"
  | .addVy _ _ => "ADD_VY"
  | .sub _ _ => "SUB"
  | .shr _ _ => "SHR"
  | .subn _ _ => "SUBN"
  | .shl _ _ => "SHL"
  | .sneVy _ _ _ => "SNE_VY"
  | .ldI _ => "LD_I"
  | .jpV0 _ => "JP_V0"
  | .drw _ _ _ => "DRW"
  | .skp _ => "SKP"
  | .sknp _ => "SKNP"
  | .ldVxDt _ => "LD_VX_DT"
  | .ldVxK _ => "LD_VX_K"
  | .ldDtVx _ => "LD_DT_VX"
  | .ldStVx _ => "LD_ST_VX"
  | .addI _ => "ADD_I"
  | .bcd _ => "BCD"
  | .store _ => "STORE"
  | .load _ => "LOAD"

end Sys2Proof
end

