-- ==== Sys2Proof/Decode.lean ====
section
/-! DEFINITION. From words to instructions and back (30_encoding.md): the fields of a word (R61), the decoder
in the order the spec gives it (R64), the named reasons a word is unrecognized (R68), the opcode map as data
(R65), and the encoder, one line per format (R62). -/

namespace Sys2Proof

/-! ## Fields of an instruction word (R61) -/

/-- `OP = w[15:12]`, the opcode family. -/
def opField (w : Word) : Nibble := w.extractLsb' 12 4

/-- `X = w[11:8]`. -/
def xField (w : Word) : Reg := w.extractLsb' 8 4

/-- `Y = w[7:4]`. -/
def yField (w : Word) : Reg := w.extractLsb' 4 4

/-- `N = w[3:0]`. -/
def nField (w : Word) : Nibble := w.extractLsb' 0 4

/-- `NN = w[7:0]`. -/
def nnField (w : Word) : Byte := w.extractLsb' 0 8

/-- `NNN = w[11:0]`. -/
def nnnField (w : Word) : Addr12 := w.extractLsb' 0 12

/-- A word from its two bytes, the first one (at the lower address) the high one (20_memory.md R42). -/
def wordOfBytes (hi lo : Byte) : Word := hi ++ lo

/-- The byte of a word that stands at the lower address (20_memory.md R42). -/
def highByte (w : Word) : Byte := w.extractLsb' 8 8

/-- The byte of a word that stands at the higher address (20_memory.md R42). -/
def lowByte (w : Word) : Byte := w.extractLsb' 0 8

/-! ## The decoder -/

/-- Why a word is unrecognized: the five rows of the table of R68. -/
inductive Unrecognized where
  /-- Top nibble 0, and neither `00E0` nor `00EE`. -/
  | family0
  /-- Family 8 with a low nibble that selects nothing (R66). -/
  | family8SubOpcode
  /-- Top nibble 0xC, which no instruction uses (R68). -/
  | familyC
  /-- Family E with a low byte that selects nothing (R67). -/
  | familyESubOpcode
  /-- Family F with a low byte that selects nothing (R67). -/
  | familyFSubOpcode
  deriving DecidableEq, Repr

/-- Family 8, selected on the low nibble (R66). -/
def decodeFamily8 (w : Word) : Except Unrecognized Instr :=
  match (nField w).toNat with
  | 0x0 => .ok (.ldVy (xField w) (yField w))
  | 0x1 => .ok (.orVy (xField w) (yField w))
  | 0x2 => .ok (.andVy (xField w) (yField w))
  | 0x3 => .ok (.xorVy (xField w) (yField w))
  | 0x4 => .ok (.addVy (xField w) (yField w))
  | 0x5 => .ok (.sub (xField w) (yField w))
  | 0x6 => .ok (.shr (xField w) (yField w))
  | 0x7 => .ok (.subn (xField w) (yField w))
  | 0xE => .ok (.shl (xField w) (yField w))
  | _ => .error .family8SubOpcode

/-- Family E, selected on the low byte (R67). -/
def decodeFamilyE (w : Word) : Except Unrecognized Instr :=
  match (nnField w).toNat with
  | 0x9E => .ok (.skp (xField w))
  | 0xA1 => .ok (.sknp (xField w))
  | _ => .error .familyESubOpcode

/-- Family F, selected on the low byte (R67). -/
def decodeFamilyF (w : Word) : Except Unrecognized Instr :=
  match (nnField w).toNat with
  | 0x07 => .ok (.ldVxDt (xField w))
  | 0x0A => .ok (.ldVxK (xField w))
  | 0x15 => .ok (.ldDtVx (xField w))
  | 0x18 => .ok (.ldStVx (xField w))
  | 0x1E => .ok (.addI (xField w))
  | 0x33 => .ok (.bcd (xField w))
  | 0x55 => .ok (.store (xField w))
  | 0x65 => .ok (.load (xField w))
  | _ => .error .familyFSubOpcode

/-- The dispatch on the top nibble (R64). A nibble has sixteen values, so the last arm is 0xF alone. -/
def decodeByFamily (w : Word) : Except Unrecognized Instr :=
  match (opField w).toNat with
  | 0x0 => .error .family0
  | 0x1 => .ok (.jp (nnnField w))
  | 0x2 => .ok (.call (nnnField w))
  | 0x3 => .ok (.seNn (xField w) (nnField w))
  | 0x4 => .ok (.sneNn (xField w) (nnField w))
  | 0x5 => .ok (.seVy (xField w) (yField w) (nField w))
  | 0x6 => .ok (.ldNn (xField w) (nnField w))
  | 0x7 => .ok (.addNn (xField w) (nnField w))
  | 0x8 => decodeFamily8 w
  | 0x9 => .ok (.sneVy (xField w) (yField w) (nField w))
  | 0xA => .ok (.ldI (nnnField w))
  | 0xB => .ok (.jpV0 (nnnField w))
  | 0xC => .error .familyC
  | 0xD => .ok (.drw (xField w) (yField w) (nField w))
  | 0xE => decodeFamilyE w
  | _ => decodeFamilyF w

/-- The decoder (R64): the two whole words first, then the families. It reads nothing but the word (R83). -/
def decode (w : Word) : Except Unrecognized Instr :=
  if w = 0x00E0#16 then .ok .cls
  else if w = 0x00EE#16 then .ok .ret
  else decodeByFamily w

/-- Why a string of bytes gives no instruction. -/
inductive DecodeError where
  /-- Fewer than the two bytes every instruction has (R60). -/
  | truncated
  /-- Two bytes that spell an unrecognized word (R68). -/
  | unrecognized (w : Word) (why : Unrecognized)
  deriving DecidableEq, Repr

/-- The decoder on bytes: the first instruction and the bytes after it. Total, and it rejects by name. -/
def decodeBytes : List Byte → Except DecodeError (Instr × List Byte)
  | hi :: lo :: rest =>
    match decode (wordOfBytes hi lo) with
    | .ok i => .ok (i, rest)
    | .error why => .error (.unrecognized (wordOfBytes hi lo) why)
  | _ => .error .truncated

/-- The instruction the decoder reads from a word numbered as spec/opcode_table.json numbers it, bit 0 the
least significant. Every row has 16 bits (R60), so `nbits` says nothing more. -/
def decodeTableWord (_nbits w : Nat) : Option Instr :=
  let word : Word := BitVec.ofNat 16 w
  match decodeBytes [highByte word, lowByte word] with
  | .ok (i, _) => some i
  | .error _ => none

/-! ## The opcode map as data (R65) -/

/-- One row of the opcode map: a word `w` selects it when `w AND mask = val`. -/
structure OpRow where
  mnemonic : String
  mask : Word
  val : Word
  deriving DecidableEq, Repr

/-- Whether a word selects a row (R65). -/
def OpRow.selects (r : OpRow) (w : Word) : Bool := w &&& r.mask == r.val

/-- The rows of families 0 to 7. -/
def opcodeRowsLow : List OpRow :=
  [⟨"CLS", 0xFFFF, 0x00E0⟩, ⟨"RET", 0xFFFF, 0x00EE⟩, ⟨"JP", 0xF000, 0x1000⟩, ⟨"CALL", 0xF000, 0x2000⟩,
   ⟨"SE_NN", 0xF000, 0x3000⟩, ⟨"SNE_NN", 0xF000, 0x4000⟩, ⟨"SE_VY", 0xF000, 0x5000⟩,
   ⟨"LD_NN", 0xF000, 0x6000⟩, ⟨"ADD_NN", 0xF000, 0x7000⟩]

/-- The rows of family 8. -/
def opcodeRowsAlu : List OpRow :=
  [⟨"LD_VY", 0xF00F, 0x8000⟩, ⟨"OR", 0xF00F, 0x8001⟩, ⟨"AND", 0xF00F, 0x8002⟩, ⟨"XOR", 0xF00F, 0x8003⟩,
   ⟨"ADD_VY", 0xF00F, 0x8004⟩, ⟨"SUB", 0xF00F, 0x8005⟩, ⟨"SHR", 0xF00F, 0x8006⟩,
   ⟨"SUBN", 0xF00F, 0x8007⟩, ⟨"SHL", 0xF00F, 0x800E⟩]

/-- The rows of families 9 to F. -/
def opcodeRowsHigh : List OpRow :=
  [⟨"SNE_VY", 0xF000, 0x9000⟩, ⟨"LD_I", 0xF000, 0xA000⟩, ⟨"JP_V0", 0xF000, 0xB000⟩, ⟨"DRW", 0xF000, 0xD000⟩,
   ⟨"SKP", 0xF0FF, 0xE09E⟩, ⟨"SKNP", 0xF0FF, 0xE0A1⟩, ⟨"LD_VX_DT", 0xF0FF, 0xF007⟩,
   ⟨"LD_VX_K", 0xF0FF, 0xF00A⟩, ⟨"LD_DT_VX", 0xF0FF, 0xF015⟩, ⟨"LD_ST_VX", 0xF0FF, 0xF018⟩,
   ⟨"ADD_I", 0xF0FF, 0xF01E⟩, ⟨"BCD", 0xF0FF, 0xF033⟩, ⟨"STORE", 0xF0FF, 0xF055⟩, ⟨"LOAD", 0xF0FF, 0xF065⟩]

/-- The opcode map of R65, all 32 rows. -/
def opcodeRows : List OpRow := opcodeRowsLow ++ opcodeRowsAlu ++ opcodeRowsHigh

/-! ## The encoder -/

/-- Format A: a family and an address (R62). -/
def formatA (op : Nibble) (nnn : Addr12) : Word := op ++ nnn

/-- Formats I and S: a family, a register and a byte, which is an immediate or a sub-opcode (R62). -/
def formatI (op : Nibble) (x : Reg) (nn : Byte) : Word := op ++ (x ++ nn : BitVec 12)

/-- Formats R and D: a family, two registers and a nibble, which is a count, a sub-opcode or ignored (R62). -/
def formatR (op : Nibble) (x y : Reg) (n : Nibble) : Word := op ++ (x ++ (y ++ n : BitVec 8) : BitVec 12)

/-- The word of an instruction, from the formats (R62) and the fixed bits of the opcode map (R65). -/
def encode : Instr → Word
  | .cls => 0x00E0
  | .ret => 0x00EE
  | .jp nnn => formatA 0x1 nnn
  | .call nnn => formatA 0x2 nnn
  | .seNn x nn => formatI 0x3 x nn
  | .sneNn x nn => formatI 0x4 x nn
  | .seVy x y n => formatR 0x5 x y n
  | .ldNn x nn => formatI 0x6 x nn
  | .addNn x nn => formatI 0x7 x nn
  | .ldVy x y => formatR 0x8 x y 0x0
  | .orVy x y => formatR 0x8 x y 0x1
  | .andVy x y => formatR 0x8 x y 0x2
  | .xorVy x y => formatR 0x8 x y 0x3
  | .addVy x y => formatR 0x8 x y 0x4
  | .sub x y => formatR 0x8 x y 0x5
  | .shr x y => formatR 0x8 x y 0x6
  | .subn x y => formatR 0x8 x y 0x7
  | .shl x y => formatR 0x8 x y 0xE
  | .sneVy x y n => formatR 0x9 x y n
  | .ldI nnn => formatA 0xA nnn
  | .jpV0 nnn => formatA 0xB nnn
  | .drw x y n => formatR 0xD x y n
  | .skp x => formatI 0xE x 0x9E
  | .sknp x => formatI 0xE x 0xA1
  | .ldVxDt x => formatI 0xF x 0x07
  | .ldVxK x => formatI 0xF x 0x0A
  | .ldDtVx x => formatI 0xF x 0x15
  | .ldStVx x => formatI 0xF x 0x18
  | .addI x => formatI 0xF x 0x1E
  | .bcd x => formatI 0xF x 0x33
  | .store x => formatI 0xF x 0x55
  | .load x => formatI 0xF x 0x65

/-- The two bytes of an instruction as they stand in memory (20_memory.md R42). -/
def encodeBytes (i : Instr) : List Byte := [highByte (encode i), lowByte (encode i)]

end Sys2Proof
end

