-- ==== Sys2Proof/Config.lean ====
section
/-! DEFINITION. The parameters of the machine (00_scope.md R4): the fixed ones, the values this model names
for the ones the spec leaves OPEN at reset, and the free values of the one behaviour the spec leaves
unspecified while the machine goes on (a frame-buffer cell that holds neither 0 nor 1). -/

namespace Sys2Proof.Config

/-- `MEM_SIZE`. -/
def memSize : Nat := 4096

/-- `PROG_BASE`, the entry point and the load address. -/
def progBase : Nat := 0x200

/-- `PROG_MAX`, the longest program LOAD copies. -/
def progMax : Nat := 3584

/-- `W`, the columns of the frame buffer. -/
def fbWidth : Nat := 64

/-- `H`, the rows of the frame buffer. -/
def fbHeight : Nat := 32

/-- The cells of the frame buffer (10_state.md R27). -/
def fbSize : Nat := 2048

/-- The strap `quirk_shift` that `State.reset` is built with.
DESIGN CHOICE (log entry 1): R30 gives `qs`, the host's choice; 95_test_vectors.md takes true unless stated. -/
def resetQuirkShift : Bool := true

/-- The strap `clipping` that `State.reset` is built with. DESIGN CHOICE (log entry 1), as above. -/
def resetClipping : Bool := true

/-- `reset_V`, every register alike. DESIGN CHOICE (log entry 2): the spec leaves it OPEN. -/
def resetV : Byte := 0

/-- `reset_I`. DESIGN CHOICE (log entry 2): the spec leaves it OPEN. -/
def resetI : Word := 0

/-- `reset_stack`, every entry alike. DESIGN CHOICE (log entry 2): the spec leaves it OPEN. -/
def resetStackEntry : Word := 0

/-- What `DXYN` writes to a cell that held neither 0 nor 1 and is under a lit sprite bit: the spec gives no
value (10_state.md R27, 93_implementation_defined.md U9), so it is FREE: no body, one value for each
count of `State.free` (log entry 4). -/
opaque freeCell : Nat → Byte

/-- Whether such a cell counts as a collision: FREE, as above (log entry 4). -/
opaque freeCollision : Nat → Bool

end Sys2Proof.Config
end

