-- ==== Sys2Proof/Machine/State.lean ====
section
/-! DEFINITION. The state of the machine (10_state.md R10), its host-owned frame buffer (R27), the DIAG port
kept as a list (R28), and the two fields that are the model's own: the host's schedule (log entry 3) and the
counter of free values (log entry 4). All of it is plain data. -/

namespace Sys2Proof.Machine

/-- Bytes by address: strictly rising addresses, no entry equal to 0, which is what an unlisted address reads
as (`Memory.wf` in Ops.lean). Main memory and the frame buffer are each one. -/
abbrev Memory := List Host.Cell

/-- The non-fatal conditions that are reported (60_exceptions.md R160). -/
inductive ReportKind where
  /-- A word no instruction claims (R161). -/
  | unrecognizedOpcode
  /-- A refused `FX33`, `FX55` or `FX65` (R162). -/
  | transferOutOfBounds
  /-- A refused `DXYN` (R162). -/
  | spriteReadOutOfBounds
  deriving DecidableEq, Repr

/-- One record of the DIAG port (60_exceptions.md R164): the condition, the instruction word, and the address
the word was fetched from. -/
structure Report where
  kind : ReportKind
  word : Word
  addr : Word
  deriving DecidableEq, Repr

/-- The fatal condition (10_state.md R26), with the address R160 records in it. -/
inductive FatalMark where
  /-- A STEP began with `pc >= 4095`; `p` is that `pc`. -/
  | fetchOutOfBounds (p : Word)
  deriving DecidableEq, Repr

/-- The host's events between steps (60_exceptions.md R170). A key code is a nibble: no other is delivered (R172). -/
inductive HostEvent where
  | tick
  | keyDown (k : Nibble)
  | keyUp
  deriving DecidableEq, Repr

structure State where
  /-- `V[0..15]` (R11). -/
  v : Vector Byte 16
  /-- `pc` (R13); while an instruction executes, the address after it (R14). -/
  pc : Word
  /-- `I` (R16). -/
  ireg : Word
  /-- `stack[0..15]` (R17). -/
  stack : Vector Word 16
  /-- `sp`, the next free slot (R18). -/
  sp : Nibble
  /-- The delay timer (R19). -/
  dt : Byte
  /-- The sound timer (R20). -/
  st : Byte
  /-- The key latch (R24). -/
  key : Option Nibble
  /-- The strap `quirk_shift` (R22). -/
  quirkShift : Bool
  /-- The strap `clipping` (R23). -/
  clipping : Bool
  /-- Main memory, addresses 0 to 4095 (R25). -/
  mem : Memory
  /-- The frame buffer by linear index `y * 64 + x`, 0 to 2047, one byte a cell (R27). -/
  fb : Memory
  /-- The fatal mark (R26). -/
  fault : Option FatalMark
  /-- The DIAG port, oldest record first (R28). -/
  diag : List Report
  /-- The model's own: the host events before each coming STEP (log entry 3). -/
  schedule : List (List HostEvent)
  /-- The model's own: the count of free values used (log entry 4). -/
  free : Nat
  deriving DecidableEq, Repr

/-- Why a step gives no state. -/
inductive Fault where
  /-- Raised by `step` when the fatal mark is set: the core accepts no further STEP (60_exceptions.md R163).
  Safe: the spec gives such a STEP no effect. -/
  | stepAfterFatalFetch
  deriving DecidableEq, Repr

/-- Why an instruction is refused. -/
inductive Refusal where
  /-- Raised by an arm of `exec` that has no meaning yet; no arm of this model is one. Safe. -/
  | notModelled (mnemonic : String)
  deriving DecidableEq, Repr

/-- The values RESET leaves OPEN (10_state.md R30): `reset_V`, `reset_I`, `reset_stack`. -/
structure OpenReset where
  v : Vector Byte 16
  ireg : Word
  stack : Vector Word 16
  deriving DecidableEq, Repr

/-- RESET(qs, cl) (70_reset_and_hazards.md R190) of a machine whose host provides the frame buffer `fb` (R195). -/
def State.construct (qs cl : Bool) (o : OpenReset) (fb : Memory) : State where
  v := o.v
  pc := BitVec.ofNat 16 Config.progBase
  ireg := o.ireg
  stack := o.stack
  sp := 0
  dt := 0
  st := 0
  key := none
  quirkShift := qs
  clipping := cl
  mem := []
  fb := fb
  fault := none
  diag := []
  schedule := []
  free := 0

/-- The values this model names for the OPEN parameters. DESIGN CHOICE (log entry 2). -/
def openReset : OpenReset where
  v := Vector.replicate 16 Config.resetV
  ireg := Config.resetI
  stack := Vector.replicate 16 Config.resetStackEntry

/-- The machine right after RESET, with the straps of log entry 1, the OPEN values of log entry 2 and a dark
frame buffer (DESIGN CHOICE, log entry 2). No program is loaded: LOAD is the host's (log entry 15). -/
def State.reset : State :=
  State.construct Config.resetQuirkShift Config.resetClipping openReset []

end Sys2Proof.Machine
end

