-- ==== Sys2Proof/Machine/Ops.lean ====
section
/-! DEFINITION. The named operations over memory, registers, stack and the program counter (00_scope.md R6),
and the two ways an error condition is taken (60_exceptions.md R160): `report`, after which execution goes on,
and `raiseFetchOutOfBounds`, after which there is no step. This machine has no trap entry and therefore no
return from one (R167, R168). -/

namespace Sys2Proof.Machine

/-! ## Memory: one sparse store for main memory and the frame buffer -/

/-- What an unlisted address reads as: RESET zeroes memory (10_state.md R30). -/
def Memory.unlisted : Byte := 0

/-- `MemRead(a, 1)` (20_memory.md R43). The spec defines it below the store's size only, and every caller
checks that bound first. -/
def Memory.read : Memory → Nat → Byte
  | [], _ => Memory.unlisted
  | (k, b) :: m, a => if k = a then b else Memory.read m a

/-- `MemWrite(a, 1, b)` (20_memory.md R43), keeping the canonical form. -/
def Memory.write : Memory → Nat → Byte → Memory
  | [], a, b => if b = Memory.unlisted then [] else [(a, b)]
  | (k, c) :: m, a, b =>
    if a < k then
      if b = Memory.unlisted then (k, c) :: m else (a, b) :: (k, c) :: m
    else if a = k then
      if b = Memory.unlisted then m else (a, b) :: m
    else (k, c) :: Memory.write m a b

/-- The canonical form from address `lo` on: rising, below `size`, no entry that an unlisted address reads as. -/
def Memory.wfFrom (size lo : Nat) : Memory → Bool
  | [] => true
  | (k, b) :: m => decide (lo ≤ k) && decide (k < size) && decide (b ≠ Memory.unlisted) && Memory.wfFrom size (k + 1) m

/-- The canonical form of a store of `size` bytes. -/
def Memory.wf (size : Nat) (m : Memory) : Bool := Memory.wfFrom size 0 m

/-- Byte writes at rising addresses from `a` (20_memory.md R46: a block is that many byte writes). -/
def Memory.writeBytes (m : Memory) (a : Nat) : List Byte → Memory
  | [] => m
  | b :: bs => Memory.writeBytes (m.write a b) (a + 1) bs

/-- `n` byte reads at rising addresses from `a`. -/
def Memory.readBytes (m : Memory) (a n : Nat) : List Byte :=
  (List.range n).map fun k => m.read (a + k)

/-- Whether the `n` bytes from `a` lie inside main memory (20_memory.md R43, R56: no wrap). -/
def blockInMemory (a n : Nat) : Bool := decide (a + n ≤ Config.memSize)

namespace State

/-! ## General registers (10_state.md R11) -/

/-- `V[x]`. -/
def readV (s : State) (x : Reg) : Byte := s.v[x.toNat]'x.isLt

/-- `V[x] <- b`. -/
def writeV (s : State) (x : Reg) (b : Byte) : State := { s with v := s.v.set x.toNat b x.isLt }

/-- The register that is also the flag, VF (10_state.md R12). -/
abbrev vfIndex : Reg := 15

/-- `V[15] <- f`, the flag write. -/
def writeFlag (s : State) (f : Bool) : State := s.writeV vfIndex (if f then 1 else 0)

/-- A result and then the flag, in that order, so that with `x = 15` the flag is what remains (42_alu.md R110,
log entry 7). -/
def writeResultAndFlag (s : State) (x : Reg) (b : Byte) (f : Bool) : State := (s.writeV x b).writeFlag f

/-- The first `n` general registers, `V[0]` first. -/
def firstRegs (s : State) (n : Nat) : List Byte := (List.range n).map fun k => s.readV (BitVec.ofNat 4 k)

/-- `V[k] <- b` for the bytes of a list, `k` rising. -/
def writeRegsFrom (s : State) (k : Nat) : List Byte → State
  | [] => s
  | b :: bs => writeRegsFrom (s.writeV (BitVec.ofNat 4 k) b) (k + 1) bs

/-! ## The program counter (10_state.md R13, R14) -/

/-- `pc <- target`. -/
def jump (s : State) (target : Word) : State := { s with pc := target }

/-- `pc <- pc + 2`, modulo 2^16 (R14): the fetch's advance, and a skip that is taken. -/
def advance (s : State) : State := { s with pc := s.pc + 2 }

/-- The advance of a conditional skip. -/
def skipIf (s : State) (c : Bool) : State := if c then s.advance else s

/-- `p`: while an instruction executes, the address its word was fetched from (R14). -/
def instrAddr (s : State) : Word := s.pc - 2

/-- `pc <- pc - 2`: the same word is fetched again (41_control_flow.md R100). -/
def rewind (s : State) : State := { s with pc := s.pc - 2 }

/-! ## The index register and the timers -/

/-- `I <- a`. -/
def writeI (s : State) (a : Word) : State := { s with ireg := a }

/-- `dt <- b`. -/
def writeDt (s : State) (b : Byte) : State := { s with dt := b }

/-- `st <- b`. -/
def writeSt (s : State) (b : Byte) : State := { s with st := b }

/-! ## The call stack (10_state.md R17, R18); `sp` is a nibble, so its arithmetic is modulo 16 -/

/-- `stack[j]`. -/
def readStack (s : State) (j : Nibble) : Word := s.stack[j.toNat]'j.isLt

/-- `stack[sp] <- a; sp <- (sp + 1) mod 16` (41_control_flow.md R92). -/
def push (s : State) (a : Word) : State :=
  { s with stack := s.stack.set s.sp.toNat a s.sp.isLt, sp := s.sp + 1 }

/-- `sp <- (sp - 1) mod 16; pc <- stack[sp]` (41_control_flow.md R93). The entry stays. -/
def popToPc (s : State) : State := { s with sp := s.sp - 1, pc := s.readStack (s.sp - 1) }

/-! ## Main memory -/

/-- The byte stores of one instruction, at rising addresses from `a`. -/
def storeBytes (s : State) (a : Nat) (bs : List Byte) : State := { s with mem := s.mem.writeBytes a bs }

/-! ## Error conditions (60_exceptions.md R160) -/

/-- `report <kind>(w, p)`: one record on the DIAG port, and nothing else (R164). -/
def report (s : State) (kind : ReportKind) (w : Word) : State :=
  { s with diag := s.diag ++ [⟨kind, w, s.instrAddr⟩] }

/-- `raise FetchOutOfBounds(p)`, with `p` the `pc` the STEP began with: the mark is set and nothing else
changes (R163, log entry 5). -/
def raiseFetchOutOfBounds (s : State) : State := { s with fault := some (.fetchOutOfBounds s.pc) }

end State

/-- The code the spec gives a reported condition (R160); a label, no state. -/
def ReportKind.code : ReportKind → Nat
  | .unrecognizedOpcode => 1
  | .transferOutOfBounds => 2
  | .spriteReadOutOfBounds => 3

/-- The code the spec gives the fatal condition (R160); a label, no state. -/
def FatalMark.code : FatalMark → Nat
  | .fetchOutOfBounds _ => 4

end Sys2Proof.Machine
end

