-- ==== Sys2Proof/Machine/Operands.lean ====
section
/-! DEFINITION. The operand forms: zero-extended immediates and key codes (30_encoding.md R63), the source of a
shift (42_alu.md section 4), the index-plus-offset address (43_memory_transfer.md R130), the decimal digits
(R135) and the sprite's anchor, bits and target cells (44_display.md R141). -/

namespace Sys2Proof.Machine

/-- `zext_16(NNN)` (30_encoding.md R63). -/
def zextAddr (nnn : Addr12) : Word := nnn.setWidth 16

/-- `zext_16(b)`. -/
def zextByte (b : Byte) : Word := b.setWidth 16

/-- `zext_8(k)`. -/
def zextKey (k : Nibble) : Byte := k.setWidth 8

/-- The source of a shift: `V[X]` if `quirk_shift`, else `V[Y]` (42_alu.md R117, R119). -/
def shiftSource (s : State) (x y : Reg) : Byte := if s.quirkShift then s.readV x else s.readV y

/-- The effective address `I + k`, an integer without wrap (20_memory.md R56). -/
def effAddr (s : State) (k : Nat) : Nat := s.ireg.toNat + k

/-- Hundreds, tens, ones (43_memory_transfer.md R135). -/
def decimalDigits (b : Byte) : List Byte :=
  [BitVec.ofNat 8 (b.toNat / 100), BitVec.ofNat 8 (b.toNat / 10 % 10), BitVec.ofNat 8 (b.toNat % 10)]

/-- Whether the latched key is `b`: a key is down and its code, zero-extended, is all of `b` (41_control_flow.md
section 4, log entry 8). -/
def keyIs (s : State) (b : Byte) : Bool :=
  match s.key with
  | some k => zextKey k == b
  | none => false

/-- The column of the anchor (44_display.md R141). -/
def anchorX (b : Byte) : Nat := b.toNat % Config.fbWidth

/-- The row of the anchor (44_display.md R141). -/
def anchorY (b : Byte) : Nat := b.toNat % Config.fbHeight

/-- Bit `c` of a sprite row counted from the left: the most significant is the leftmost (44_display.md R141). -/
def spriteBit (b : Byte) (c : Nat) : Bool := b.getLsbD (7 - c)

/-- The linear index of a cell (10_state.md R27). -/
def cellIndex (x y : Nat) : Nat := y * Config.fbWidth + x

/-- The cell under row `r`, column `c` of a sprite anchored at `(x0, y0)`: outside the buffer it is clipped away or
wraps, by the strap `clipping` (44_display.md R141). -/
def pixelTarget (clip : Bool) (x0 y0 r c : Nat) : Option Nat :=
  if clip then
    if x0 + c < Config.fbWidth ∧ y0 + r < Config.fbHeight then some (cellIndex (x0 + c) (y0 + r)) else none
  else some (cellIndex ((x0 + c) % Config.fbWidth) ((y0 + r) % Config.fbHeight))

/-- The cells under the lit bits of one sprite row, left to right. -/
def rowTargets (clip : Bool) (x0 y0 r : Nat) (b : Byte) : List Nat :=
  (List.range 8).filterMap fun c => if spriteBit b c then pixelTarget clip x0 y0 r c else none

/-- The cells under the lit bits of a sprite, in drawing order: rows top to bottom (44_display.md R141). -/
def spriteTargets (clip : Bool) (x0 y0 : Nat) (rows : List Byte) : List Nat :=
  rows.zipIdx.flatMap fun rb => rowTargets clip x0 y0 rb.2 rb.1

end Sys2Proof.Machine
end

