-- ==== Sys2Proof/Machine/Flags.lean ====
section
/-! DEFINITION. Every value the ALU computes, and with it every flag the spec gives VF (10_state.md R33,
42_alu.md R120): results are exact integers narrowed at the end, flags compare the operands before the operation. -/

namespace Sys2Proof.Machine

/-- The low 8 bits of the sum (42_alu.md R115, 45_immediate_loads.md R151). -/
def addResult (x y : Byte) : Byte := BitVec.ofNat 8 (x.toNat + y.toNat)

/-- The carry: the sum exceeds 255 (42_alu.md R115). -/
def addCarry (x y : Byte) : Bool := decide (255 < x.toNat + y.toNat)

/-- The difference modulo 256 (42_alu.md R116, R118). -/
def subResult (x y : Byte) : Byte := BitVec.ofNat 8 (256 + x.toNat - y.toNat)

/-- Not-borrow: the minuend is at least the subtrahend (42_alu.md R116, R118). -/
def subNotBorrow (x y : Byte) : Bool := decide (y.toNat ≤ x.toNat)

/-- The shift right by one, filling with 0 (42_alu.md R117). -/
def shrResult (b : Byte) : Byte := BitVec.ofNat 8 (b.toNat / 2)

/-- The bit a shift right moves out (42_alu.md R117). -/
def shrFlag (b : Byte) : Bool := b.getLsbD 0

/-- The shift left by one, filling with 0 (42_alu.md R119). -/
def shlResult (b : Byte) : Byte := BitVec.ofNat 8 (b.toNat * 2)

/-- The bit a shift left moves out (42_alu.md R119). -/
def shlFlag (b : Byte) : Bool := b.getLsbD 7

/-- `(I + zext_16(V[X])) mod 65536` (43_memory_transfer.md R134). -/
def indexSum (a : Word) (b : Byte) : Word := BitVec.ofNat 16 (a.toNat + b.toNat)

/-- `(zext_16(NNN) + zext_16(V[0])) mod 65536` (41_control_flow.md R91). -/
def jumpSum (nnn : Addr12) (b : Byte) : Word := BitVec.ofNat 16 (nnn.toNat + b.toNat)

end Sys2Proof.Machine
end

