-- ==== Sys2Proof/Machine/Alu.lean ====
section
/-! DEFINITION. The ALU (42_alu.md). Every operand is read from the state the meaning is given, before any
write; where a flag is written it is written last (R110, 40_fetch_dispatch.md R85, log entry 7). -/

namespace Sys2Proof.Machine

/-- `8XY0` (R111). -/
def execLdVy (x y : Reg) (s : State) : Host.Outcome State Fault Refusal :=
  .next (s.writeV x (s.readV y))

/-- `8XY1` (R112): VF is not written. -/
def execOrVy (x y : Reg) (s : State) : Host.Outcome State Fault Refusal :=
  .next (s.writeV x (s.readV x ||| s.readV y))

/-- `8XY2` (R113): VF is not written. -/
def execAndVy (x y : Reg) (s : State) : Host.Outcome State Fault Refusal :=
  .next (s.writeV x (s.readV x &&& s.readV y))

/-- `8XY3` (R114): VF is not written. -/
def execXorVy (x y : Reg) (s : State) : Host.Outcome State Fault Refusal :=
  .next (s.writeV x (s.readV x ^^^ s.readV y))

/-- `8XY4` (R115). -/
def execAddVy (x y : Reg) (s : State) : Host.Outcome State Fault Refusal :=
  .next (s.writeResultAndFlag x (addResult (s.readV x) (s.readV y)) (addCarry (s.readV x) (s.readV y)))

/-- `8XY5` (R116). -/
def execSub (x y : Reg) (s : State) : Host.Outcome State Fault Refusal :=
  .next (s.writeResultAndFlag x (subResult (s.readV x) (s.readV y)) (subNotBorrow (s.readV x) (s.readV y)))

/-- `8XY7` (R118): `8XY5` with minuend and subtrahend exchanged. -/
def execSubn (x y : Reg) (s : State) : Host.Outcome State Fault Refusal :=
  .next (s.writeResultAndFlag x (subResult (s.readV y) (s.readV x)) (subNotBorrow (s.readV y) (s.readV x)))

/-- `8XY6` (R117). -/
def execShr (x y : Reg) (s : State) : Host.Outcome State Fault Refusal :=
  .next (s.writeResultAndFlag x (shrResult (shiftSource s x y)) (shrFlag (shiftSource s x y)))

/-- `8XYE` (R119). -/
def execShl (x y : Reg) (s : State) : Host.Outcome State Fault Refusal :=
  .next (s.writeResultAndFlag x (shlResult (shiftSource s x y)) (shlFlag (shiftSource s x y)))

end Sys2Proof.Machine
end

