-- ==== Sys2Proof/Machine/ControlFlow.lean ====
section
/-! DEFINITION. The control-flow unit (41_control_flow.md). While a meaning runs, `pc` is already `p + 2`
(10_state.md R14). No target is checked: one outside memory is found by the next fetch (R82). -/

namespace Sys2Proof.Machine

/-- `1NNN` (R90). -/
def execJp (nnn : Addr12) (s : State) : Host.Outcome State Fault Refusal :=
  .next (s.jump (zextAddr nnn))

/-- `BNNN` (R91): the offset register is always `V[0]`; the sum is not reduced to the memory size. -/
def execJpV0 (nnn : Addr12) (s : State) : Host.Outcome State Fault Refusal :=
  .next (s.jump (jumpSum nnn (s.readV 0)))

/-- `2NNN` (R92): what is pushed is the advanced `pc`. A 17th nested call wraps unseen (R101). -/
def execCall (nnn : Addr12) (s : State) : Host.Outcome State Fault Refusal :=
  .next ((s.push s.pc).jump (zextAddr nnn))

/-- `00EE` (R93). A return with no call outstanding wraps unseen (R101). -/
def execRet (s : State) : Host.Outcome State Fault Refusal :=
  .next s.popToPc

/-- `3XNN` (R94). -/
def execSeNn (x : Reg) (nn : Byte) (s : State) : Host.Outcome State Fault Refusal :=
  .next (s.skipIf (s.readV x == nn))

/-- `4XNN` (R95). -/
def execSneNn (x : Reg) (nn : Byte) (s : State) : Host.Outcome State Fault Refusal :=
  .next (s.skipIf (s.readV x != nn))

/-- `5XYn` (R96); the low nibble takes no part (R69, log entry 6). -/
def execSeVy (x y : Reg) (_ignored : Nibble) (s : State) : Host.Outcome State Fault Refusal :=
  .next (s.skipIf (s.readV x == s.readV y))

/-- `9XYn` (R97); the low nibble takes no part (R69, log entry 6). -/
def execSneVy (x y : Reg) (_ignored : Nibble) (s : State) : Host.Outcome State Fault Refusal :=
  .next (s.skipIf (s.readV x != s.readV y))

/-- `EX9E` (R98). -/
def execSkp (x : Reg) (s : State) : Host.Outcome State Fault Refusal :=
  .next (s.skipIf (keyIs s (s.readV x)))

/-- `EXA1` (R99): no key counts as "not equal". -/
def execSknp (x : Reg) (s : State) : Host.Outcome State Fault Refusal :=
  .next (s.skipIf (!keyIs s (s.readV x)))

/-- `FX0A` (R100): with a key down its code goes to `V[X]`; with none, `pc` goes back and the same word comes
again. The latch is not cleared. -/
def execLdVxK (x : Reg) (s : State) : Host.Outcome State Fault Refusal :=
  match s.key with
  | some k => .next (s.writeV x (zextKey k))
  | none => .next s.rewind

end Sys2Proof.Machine
end

