-- ==== Sys2Proof/Machine/Display.lean ====
section
/-! DEFINITION. The display unit (44_display.md): clear, and the XOR sprite blit with collision detection. -/

namespace Sys2Proof.Machine

/-- `FB[y][x] <- b` by linear index (10_state.md R27). -/
def State.writeCell (s : State) (j : Nat) (b : Byte) : State := { s with fb := s.fb.write j b }

/-- The cell a lit sprite bit lands on when it holds neither 0 nor 1: the spec gives neither its new value nor
whether it collides (93_implementation_defined.md U9), so both are free values (log entry 4). -/
def drawOnOtherCell (s : State) (j : Nat) : State :=
  let t := if Config.freeCollision s.free then s.writeFlag true else s
  { t.writeCell j (Config.freeCell s.free) with free := s.free + 1 }

/-- One lit sprite bit on cell `j` (R141): a lit cell goes dark and sets VF, a dark cell is lit. -/
def drawPixel (s : State) (j : Nat) : State :=
  if s.fb.read j = 0 then s.writeCell j 1
  else if s.fb.read j = 1 then (s.writeFlag true).writeCell j 0
  else drawOnOtherCell s j

/-- The lit bits of a sprite, one after another (R141). -/
def blit (s : State) (targets : List Nat) : State := targets.foldl drawPixel s

/-- `00E0` (R140). -/
def execCls (s : State) : Host.Outcome State Fault Refusal :=
  .next { s with fb := [] }

/-- `DXYN` (R141): the coordinates are read before VF is cleared (log entry 7); a sprite that reaches beyond
memory is refused, with VF left at 0 (R143, log entry 13). -/
def execDrw (x y : Reg) (n : Nibble) (s : State) : Host.Outcome State Fault Refusal :=
  let x0 := anchorX (s.readV x)
  let y0 := anchorY (s.readV y)
  let t := s.writeFlag false
  if blockInMemory (effAddr t 0) n.toNat then
    .next (blit t (spriteTargets t.clipping x0 y0 (t.mem.readBytes (effAddr t 0) n.toNat)))
  else .next (t.report .spriteReadOutOfBounds (encode (.drw x y n)))

end Sys2Proof.Machine
end

