-- ==== Sys2Proof/Machine/ImmediateLoads.lean ====
section
/-! DEFINITION. The immediate loads (45_immediate_loads.md); none of them writes a flag (log entry 10). -/

namespace Sys2Proof.Machine

/-- `6XNN` (R150). -/
def execLdNn (x : Reg) (nn : Byte) (s : State) : Host.Outcome State Fault Refusal :=
  .next (s.writeV x nn)

/-- `7XNN` (R151): modulo 256, VF untouched. -/
def execAddNn (x : Reg) (nn : Byte) (s : State) : Host.Outcome State Fault Refusal :=
  .next (s.writeV x (addResult (s.readV x) nn))

/-- `ANNN` (R152). -/
def execLdI (nnn : Addr12) (s : State) : Host.Outcome State Fault Refusal :=
  .next (s.writeI (zextAddr nnn))

end Sys2Proof.Machine
end

