-- ==== Sys2Proof/Machine/MemoryTransfer.lean ====
section
/-! DEFINITION. The memory-transfer unit (43_memory_transfer.md). A block whose last byte is outside memory is
refused as a whole and reported (R138, log entry 11); `I` is written by `FX1E` only (R130). -/

namespace Sys2Proof.Machine

/-- A refused transfer (R138): the report and nothing else. -/
def refuseTransfer (i : Instr) (s : State) : State := s.report .transferOutOfBounds (encode i)

/-- `FX07` (R131, log entry 12). -/
def execLdVxDt (x : Reg) (s : State) : Host.Outcome State Fault Refusal :=
  .next (s.writeV x s.dt)

/-- `FX15` (R132, log entry 12). -/
def execLdDtVx (x : Reg) (s : State) : Host.Outcome State Fault Refusal :=
  .next (s.writeDt (s.readV x))

/-- `FX18` (R133, log entry 12). -/
def execLdStVx (x : Reg) (s : State) : Host.Outcome State Fault Refusal :=
  .next (s.writeSt (s.readV x))

/-- `FX1E` (R134): modulo 65536, no flag, not reduced to the memory size. -/
def execAddI (x : Reg) (s : State) : Host.Outcome State Fault Refusal :=
  .next (s.writeI (indexSum s.ireg (s.readV x)))

/-- `FX33` (R135): refused when `I + 2 >= 4096`. -/
def execBcd (x : Reg) (s : State) : Host.Outcome State Fault Refusal :=
  if blockInMemory (effAddr s 0) 3 then .next (s.storeBytes (effAddr s 0) (decimalDigits (s.readV x)))
  else .next (refuseTransfer (.bcd x) s)

/-- `FX55` (R136): `V[0]` to `V[X]` inclusive; refused when `I + X >= 4096`. -/
def execStore (x : Reg) (s : State) : Host.Outcome State Fault Refusal :=
  if blockInMemory (effAddr s 0) (x.toNat + 1) then
    .next (s.storeBytes (effAddr s 0) (s.firstRegs (x.toNat + 1)))
  else .next (refuseTransfer (.store x) s)

/-- `FX65` (R137): `V[0]` to `V[X]` inclusive; refused when `I + X >= 4096`. -/
def execLoad (x : Reg) (s : State) : Host.Outcome State Fault Refusal :=
  if blockInMemory (effAddr s 0) (x.toNat + 1) then
    .next (s.writeRegsFrom 0 (s.mem.readBytes (effAddr s 0) (x.toNat + 1)))
  else .next (refuseTransfer (.load x) s)

end Sys2Proof.Machine
end

