-- ==== Sys2Proof/Machine/HostMoves.lean ====
section
/-! DEFINITION. The host's moves: TICK, KEY_DOWN, KEY_UP (60_exceptions.md R170 to R173), how the events planned
before a STEP are delivered (20_memory.md R52, log entry 3), RESET of a running machine and LOAD
(70_reset_and_hazards.md R190, R192), and the host's read of the frame buffer (R200). -/

namespace Sys2Proof.Machine

/-- One tick of a countdown, which stops at 0 (R171). -/
def countDown (b : Byte) : Byte := if b = 0 then 0 else b - 1

namespace State

/-- TICK (R171): each timer on its own (log entry 14). -/
def tick (s : State) : State := { s with dt := countDown s.dt, st := countDown s.st }

/-- KEY_DOWN(k) (R172): the code replaces whatever the latch holds. -/
def keyDown (k : Nibble) (s : State) : State := { s with key := some k }

/-- KEY_UP (R173): it clears the latch whichever key was released (log entry 8). -/
def keyUp (s : State) : State := { s with key := none }

/-- One host event. -/
def hostEvent (s : State) : HostEvent → State
  | .tick => s.tick
  | .keyDown k => s.keyDown k
  | .keyUp => s.keyUp

/-- The host events that fall before the coming STEP, in their order (60_exceptions.md R166); none are planned
once the schedule is at its end. -/
def deliver (s : State) : State :=
  match s.schedule with
  | [] => s
  | es :: rest => es.foldl hostEvent { s with schedule := rest }

/-- RESET(qs, cl) of a machine that is running: all of the core's state anew, the host's frame buffer as it is
(R190, R195). The host's plan and the count of free values are no state of the core and stay. -/
def hostReset (qs cl : Bool) (o : OpenReset) (s : State) : State :=
  { State.construct qs cl o s.fb with schedule := s.schedule, free := s.free }

/-- LOAD(bytes) (R192): verbatim from 0x200 on, silently truncated to what fits (R193). -/
def load (bytes : List Byte) (s : State) : State :=
  s.storeBytes Config.progBase (bytes.take Config.progMax)

/-- The host's read of `FB[y][x]` between steps (R200). -/
def pixel (s : State) (x y : Nat) : Byte := s.fb.read (cellIndex x y)

end State

end Sys2Proof.Machine
end

