-- ==== Sys2Proof/Machine/Cycle.lean ====
section
/-! DEFINITION. The fetch unit and the cycle of one STEP (40_fetch_dispatch.md R80 to R84), and where the next
instruction word stands. -/

namespace Sys2Proof.Machine

namespace State

/-- The fetch bound (R82): both bytes at `pc` and `pc + 1` exist. -/
def fetchInBounds (s : State) : Bool := decide (s.pc.toNat + 1 < Config.memSize)

/-- The word at `pc`, big-endian (R81, 20_memory.md R42). -/
def fetchWord (s : State) : Word := wordOfBytes (s.mem.read s.pc.toNat) (s.mem.read (s.pc.toNat + 1))

/-- `s` with the fatal mark cleared and with `pc` inside memory, at the entry point where it was outside. -/
def readyToFetch (s : State) : State :=
  { s with fault := none, pc := if s.fetchInBounds then s.pc else BitVec.ofNat 16 Config.progBase }

/-- `s` with the word `w` where the next fetch reads. -/
def placeFetchWord (s : State) (w : Word) : State :=
  let t := s.readyToFetch
  t.storeBytes t.pc.toNat [highByte w, lowByte w]

end State

/-- An unrecognized word (R84): the report; `pc` stays `p + 2`. -/
def execUnrecognized (w : Word) (s : State) : Host.Outcome State Fault Refusal :=
  .next (s.report .unrecognizedOpcode w)

/-- Decode and execute (R83, R84): `s` is the state after the fetch. -/
def execWord (w : Word) (s : State) : Host.Outcome State Fault Refusal :=
  match decode w with
  | .ok i => exec i s
  | .error _ => execUnrecognized w s

/-- Fetch, decode, execute (R80): beyond memory the fatal mark is all that changes (R82). -/
def cycle (s : State) : Host.Outcome State Fault Refusal :=
  if s.fetchInBounds then execWord s.fetchWord s.advance else .next s.raiseFetchOutOfBounds

end Sys2Proof.Machine
end

