-- ==== Sys2Proof/Machine/Step.lean ====
section
/-! DEFINITION. One STEP of the core (40_fetch_dispatch.md R80), after the host events planned before it. -/

namespace Sys2Proof.Machine

/-- STEP: none while the fatal mark is set (R82, 10_state.md R26); else the planned host events, then one cycle. -/
def step (s : State) : Host.Outcome State Fault Refusal :=
  match s.fault with
  | some _ => .fault .stepAfterFatalFetch
  | none => cycle s.deliver

/-- `s` with the instruction whose bits are `w`, numbered as spec/opcode_table.json numbers them, where `step`
fetches its next instruction. Every instruction is one 16-bit word (30_encoding.md R60), whatever `nbits`. The
fatal mark is cleared, and a `pc` no word can be fetched from is moved to 0x200: without either no fetch is
possible. Planned host events stay, since none of them changes what is fetched. -/
def State.withFetchWord (s : State) (_nbits w : Nat) : State := s.placeFetchWord (BitVec.ofNat 16 w)

end Sys2Proof.Machine
end

