-- ==== Sys2Proof/Safety.lean ====
section
/-! DEFINITION. What claims about a run are stated in: the invariant of the model, the host's duty on the frame
buffer, when a run has gone wrong (40_fetch_dispatch.md R86 b), when it has ended (R86 a), and a run in which
nothing was reported. -/

namespace Sys2Proof.Machine

/-- A fatal mark that is set holds the `pc` it was raised at, from which no word can be fetched (R82, R163). -/
def State.faultCoherent (s : State) : Bool :=
  match s.fault with
  | none => true
  | some (.fetchOutOfBounds p) => p == s.pc && !s.fetchInBounds

/-- The invariant of the model: both stores in canonical form and inside their sizes, and the fatal mark coherent. -/
def State.Inv (s : State) : Prop :=
  s.mem.wf Config.memSize = true ∧ s.fb.wf Config.fbSize = true ∧ s.faultCoherent = true

/-- The host's duty (10_state.md R27, log entry 4): every cell of the frame buffer holds 0 or 1. -/
def State.CellsAreBits (s : State) : Prop :=
  ∀ j : Nat, j < Config.fbSize → s.fb.read j = 0 ∨ s.fb.read j = 1

/-- The run has not gone wrong (60_exceptions.md R180). -/
def State.Unfaulted (s : State) : Prop := s.fault = none

/-- Nothing has gone wrong and nothing was reported: no unrecognized word, no refused transfer or draw. -/
def State.Clean (s : State) : Prop := s.fault = none ∧ s.diag = []

/-- The word at `pc` is a jump to itself: what a run may take as its end (40_fetch_dispatch.md R86 a). -/
def State.AtSelfJump (s : State) : Prop :=
  s.pc.toNat < 0x1000 ∧ s.fetchInBounds = true ∧ s.fetchWord = BitVec.ofNat 16 (0x1000 + s.pc.toNat)

/-- `k` STEPs lead to a state that is not faulted. -/
def SafeFor (k : Nat) (s : State) : Prop :=
  match Host.Core.run Sys2Proof.core k s with
  | .next t => State.Unfaulted t
  | .fault _ => False
  | .refused _ => False

end Sys2Proof.Machine
end

