-- ==== Sys2Proof/Certificates/Slice0/Obligations.lean ====
section
/-! DEFINITION. The statements for the provers, `def Obligations.<Name> : Prop`, and the words they are stated in:
what an instruction may write (`MayWrite`, `Unchanged`), which cells a sprite covers (`Covers`), chains of calls and
returns. While `exec` runs, `pc` is `p + 2`, where `p` is the address of the instruction (10_state.md R14). -/

open Sys2Proof Sys2Proof.Machine

namespace Sys2Proof.Claims

/-- What an instruction may write. Everything not named here it leaves as it was; the key latch, the straps, the
fatal mark and the host's schedule are never named, since no instruction writes them. -/
structure MayWrite where
  regs : Reg → Bool := fun _ => false
  pc : Bool := false
  ireg : Bool := false
  stack : Nibble → Bool := fun _ => false
  sp : Bool := false
  dt : Bool := false
  st : Bool := false
  mem : Nat → Bool := fun _ => false
  fb : Nat → Bool := fun _ => false
  diag : Bool := false
  free : Bool := false

/-- The frame: `t` differs from `s` at most in what `m` names. -/
def Unchanged (m : MayWrite) (s t : State) : Prop :=
  (∀ y, m.regs y = false → t.readV y = s.readV y) ∧
  (m.pc = false → t.pc = s.pc) ∧
  (m.ireg = false → t.ireg = s.ireg) ∧
  (∀ j, m.stack j = false → t.readStack j = s.readStack j) ∧
  (m.sp = false → t.sp = s.sp) ∧
  (m.dt = false → t.dt = s.dt) ∧
  (m.st = false → t.st = s.st) ∧
  (∀ a, m.mem a = false → t.mem.read a = s.mem.read a) ∧
  (∀ j, m.fb j = false → t.fb.read j = s.fb.read j) ∧
  (m.diag = false → t.diag = s.diag) ∧
  (m.free = false → t.free = s.free) ∧
  t.key = s.key ∧ t.quirkShift = s.quirkShift ∧ t.clipping = s.clipping ∧ t.fault = s.fault ∧ t.schedule = s.schedule

/-- "Exceptions: none": no record, no fatal mark. -/
def NoException (s t : State) : Prop := t.diag = s.diag ∧ t.fault = s.fault

/-- "Flags: none": VF is as it was. -/
def NoFlag (s t : State) : Prop := t.readV 15 = s.readV 15

/-- "Flags: none" where `X` names the destination: VF is as it was unless it is that destination. -/
def NoFlagBut (x : Reg) (s t : State) : Prop := x ≠ 15 → t.readV 15 = s.readV 15

/-- The register an instruction names in its `X` field, if it has one (30_encoding.md R62). -/
def xOf : Instr → Option Reg
  | .cls | .ret | .jp _ | .call _ | .ldI _ | .jpV0 _ => none
  | .seNn x _ | .sneNn x _ | .seVy x _ _ | .ldNn x _ | .addNn x _ | .ldVy x _ | .orVy x _ | .andVy x _ | .xorVy x _
  | .addVy x _ | .sub x _ | .shr x _ | .subn x _ | .shl x _ | .sneVy x _ _ | .drw x _ _ | .skp x | .sknp x
  | .ldVxDt x | .ldVxK x | .ldDtVx x | .ldStVx x | .addI x | .bcd x | .store x | .load x => some x

/-- The six instructions that write VF as a side effect (10_state.md R33). -/
def writesFlag : Instr → Bool
  | .addVy _ _ | .sub _ _ | .subn _ _ | .shr _ _ | .shl _ _ | .drw _ _ _ => true
  | .cls | .ret | .jp _ | .call _ | .ldI _ | .jpV0 _ | .seNn _ _ | .sneNn _ _ | .seVy _ _ _ | .ldNn _ _ | .addNn _ _
  | .ldVy _ _ | .orVy _ _ | .andVy _ _ | .xorVy _ _ | .sneVy _ _ _ | .skp _ | .sknp _ | .ldVxDt _ | .ldVxK _
  | .ldDtVx _ | .ldStVx _ | .addI _ | .bcd _ | .store _ | .load _ => false

/-- Apply a change to the next state of an outcome. -/
def mapNext (f : State → State) : Host.Outcome State Fault Refusal → Host.Outcome State Fault Refusal
  | .next t => .next (f t)
  | .fault r => .fault r
  | .refused r => .refused r

/-- The state an outcome leads to, `s` itself where it leads to none. -/
def nextOr (s : State) : Host.Outcome State Fault Refusal → State
  | .next t => t
  | .fault _ => s
  | .refused _ => s

/-- A `2NNN` executed with `pc` at `c.1`, which is therefore the return address, calling `c.2`. -/
def afterCall (s : State) (c : Word × Addr12) : State := nextOr s (exec (.call c.2) (s.jump c.1))

/-- A `00EE` executed. -/
def afterReturn (s : State) : State := nextOr s (exec .ret s)

/-- A lit bit of the sprite whose `n` rows stand in `s`'s memory from `I`, anchored at column `x0` and row `y0`,
falls on column `cx`, row `cy` of the frame buffer: clipped at the edge or wrapped, by the strap (44_display.md
R141). -/
def Covers (s : State) (x0 y0 n cx cy : Nat) : Prop :=
  ∃ r c : Nat, r < n ∧ c < 8 ∧ (s.mem.read (s.ireg.toNat + r)).getLsbD (7 - c) = true ∧
    (if s.clipping then x0 + c = cx ∧ y0 + r = cy else (x0 + c) % 64 = cx ∧ (y0 + r) % 32 = cy)

/-- The sprite that `DXYN` draws in state `s` covers a cell: the anchor is `V[X] mod 64`, `V[Y] mod 32`. -/
def DrawCovers (s : State) (x y : Reg) (n : Nibble) (cx cy : Nat) : Prop :=
  Covers s ((s.readV x).toNat % 64) ((s.readV y).toNat % 32) n.toNat cx cy

end Sys2Proof.Claims

open Sys2Proof.Claims

/-! ## Encoding -/

/-- Decoding the word, or the two bytes, of any instruction gives that instruction back, with every field at every
value (30_encoding.md R60 to R65). That the ignored nibble of `5XYn` and `9XYn` is a field, kept at every value, is the
model's choice (log entry 6). -/
def Obligations.DecodeOfEncodeIsTheInstruction : Prop :=
  ∀ (i : Instr), decode (encode i) = .ok i ∧
    ∀ rest : List Byte, decodeBytes (encodeBytes i ++ rest) = .ok (i, rest)

/-- A word that decodes is the word of the instruction it decodes to: no bit of a recognized word is dropped. For `5XYn`
and `9XYn` with `n` not 0 this is the model's choice, not the spec's: R69 and decision D2 only say that the nibble is
ignored and that 0 is canonical; that it is kept, so that `encode` gives back the very word, is the DESIGN CHOICE of log
entry 6. -/
def Obligations.EncodeOfDecodeIsTheWord : Prop :=
  ∀ (w : Word) (i : Instr), decode w = .ok i → encode i = w

/-- R65: a word selects a row exactly when its masked bits are the row's, the decoder gives the instruction of the
row that is selected, and no word selects two rows (R64). -/
def Obligations.DecoderFollowsOpcodeMap : Prop :=
  opcodeRows.length = 32 ∧
  ∀ w : Word,
    (∀ r ∈ opcodeRows, w &&& r.mask = r.val → ∃ i, decode w = .ok i ∧ i.mnemonic = r.mnemonic) ∧
    (∀ i, decode w = .ok i → ∃ r ∈ opcodeRows, w &&& r.mask = r.val ∧ r.mnemonic = i.mnemonic) ∧
    (∀ r ∈ opcodeRows, ∀ r' ∈ opcodeRows, w &&& r.mask = r.val → w &&& r'.mask = r'.val → r = r')

/-- The unrecognized words are the five classes of the table of R68, each by its name. That family C and `FX29` are
among them is the spec's decision D1 (log entry 6). -/
def Obligations.UnrecognizedWordsAreTheFiveClasses : Prop :=
  ∀ w : Word,
    (decode w = .error .family0 ↔ w.toNat / 4096 = 0 ∧ w.toNat ≠ 0x00E0 ∧ w.toNat ≠ 0x00EE) ∧
    (decode w = .error .family8SubOpcode ↔
      w.toNat / 4096 = 8 ∧ w.toNat % 16 ∈ [0x8, 0x9, 0xA, 0xB, 0xC, 0xD, 0xF]) ∧
    (decode w = .error .familyC ↔ w.toNat / 4096 = 0xC) ∧
    (decode w = .error .familyESubOpcode ↔ w.toNat / 4096 = 0xE ∧ w.toNat % 256 ∉ [0x9E, 0xA1]) ∧
    (decode w = .error .familyFSubOpcode ↔
      w.toNat / 4096 = 0xF ∧ w.toNat % 256 ∉ [0x07, 0x0A, 0x15, 0x18, 0x1E, 0x33, 0x55, 0x65])

/-- Words written out bit by bit from the encodings of opcode_table.json, one a family and format. That the ignored
nibble 7 of 0x9127 (R69, decision D2) comes back as an operand is the model's choice, the DESIGN CHOICE of log entry
6. -/
def Obligations.WrittenOutWordsDecode : Prop :=
  decode 0b0000000011100000#16 = .ok .cls ∧
  decode 0b0010001100000100#16 = .ok (.call 0x304) ∧
  decode 0b0110101001000010#16 = .ok (.ldNn 0xA 0x42) ∧
  decode 0b1000000100100110#16 = .ok (.shr 1 2) ∧
  decode 0b1001000100100111#16 = .ok (.sneVy 1 2 7) ∧
  decode 0b1101000000010101#16 = .ok (.drw 0 1 5) ∧
  decode 0b1110001110100001#16 = .ok (.sknp 3) ∧
  decode 0b1111010100110011#16 = .ok (.bcd 5)

/-! ## The step -/

/-- R80 to R83: where `pc` is inside memory, a step is the execution of the instruction whose word the bytes at `pc`
and `pc + 1` make, the first the high one, with `pc` already advanced by 2, after the host events planned before it
(the schedule is the model's own, log entry 3; no event writes `pc` or memory). -/
def Obligations.StepRunsDecodedInstruction : Prop :=
  ∀ (s : State) (w : Word) (i : Instr), s.fault = none → s.pc.toNat + 1 < 4096 →
    w.toNat = (s.mem.read s.pc.toNat).toNat * 256 + (s.mem.read (s.pc.toNat + 1)).toNat →
    decode w = .ok i →
    step s = exec i { s.deliver with pc := s.pc + 2 } ∧
    s.deliver.pc = s.pc ∧ s.deliver.mem = s.mem ∧ (s.schedule = [] → s.deliver = s)

/-- R84, R161: an unrecognized word leaves `pc` at `p + 2` and one record with the word and its own address, and
nothing else; the form of the record is decision D20 (log entry 9). -/
def Obligations.UnrecognizedWordIsReportedAndPassed : Prop :=
  ∀ (s : State) (w : Word) (e : Unrecognized), s.fault = none → s.pc.toNat + 1 < 4096 →
    w.toNat = (s.mem.read s.pc.toNat).toNat * 256 + (s.mem.read (s.pc.toNat + 1)).toNat →
    decode w = .error e →
    step s = .next { s.deliver with
      pc := s.pc + 2, diag := s.diag ++ [⟨.unrecognizedOpcode, w, s.pc⟩] }

/-- R82, R163: a step with `pc >= 4095` sets the fatal mark and changes nothing else; what "fatal" leaves is decision
D3 (log entry 5). -/
def Obligations.FetchBeyondMemoryIsFatal : Prop :=
  ∀ s : State, s.fault = none → 4095 ≤ s.pc.toNat →
    step s = .next { s.deliver with fault := some (.fetchOutOfBounds s.pc) }

/-- R163, R180, R84 ("the machine never halts on an unrecognized instruction"): a step answers a next state exactly
while no fatal mark is set; a set mark admits no step, no host event clears it, and RESET does. Decision D3 (log
entry 5); that a draw over a cell that holds neither 0 nor 1 goes on is the model's choice (log entry 4). -/
def Obligations.StepStopsExactlyWhenFaulted : Prop :=
  ∀ s : State,
    (s.fault = none → ∃ t, step s = .next t) ∧
    (s.fault ≠ none → step s = .fault .stepAfterFatalFetch) ∧
    (∀ e : HostEvent, (s.hostEvent e).fault = s.fault) ∧
    (∀ qs cl o, (s.hostReset qs cl o).fault = none)

/-- From every state that meets the invariant, a step leads to one that meets it: both stores stay in canonical form
and inside their sizes, and a fatal mark that is set names the `pc` it was raised at. -/
def Obligations.StepKeepsInvariant : Prop :=
  ∀ s t : State, s.Inv → step s = .next t → t.Inv

/-- The state after reset meets the invariant, and so does every RESET whose host provides a frame buffer in canonical
form, whatever the straps and the OPEN values are. -/
def Obligations.ResetMeetsInvariant : Prop :=
  State.reset.Inv ∧ State.reset.CellsAreBits ∧
  ∀ (qs cl : Bool) (o : OpenReset) (fb : Memory), fb.wf 2048 = true → (State.construct qs cl o fb).Inv

/-- Every move of the host keeps the invariant: an event, the delivery of the planned ones, RESET and LOAD. -/
def Obligations.HostMovesKeepInvariant : Prop :=
  ∀ s : State, s.Inv →
    (∀ e : HostEvent, (s.hostEvent e).Inv) ∧ s.deliver.Inv ∧
    (∀ qs cl o, (s.hostReset qs cl o).Inv) ∧ (∀ bytes : List Byte, (s.load bytes).Inv)

/-- R142 (c), over whole steps: where every cell holds 0 or 1 before a step, every cell does after it. -/
def Obligations.StepKeepsCellsBits : Prop :=
  ∀ s t : State, s.Inv → s.CellsAreBits → step s = .next t → t.CellsAreBits

/-! ## Rules about the whole machine -/

/-- R22: no step and no host event writes the strap `quirk_shift`; no instruction but the two shifts reads it; true makes `V[X]` the source
of a shift, false makes the shift act as if `V[X]` were first overwritten with `V[Y]`. -/
def Obligations.QuirkShiftSelectsShiftSource : Prop :=
  (∀ s t, step s = .next t → t.quirkShift = s.quirkShift) ∧
  (∀ (s : State) e, (s.hostEvent e).quirkShift = s.quirkShift) ∧
  (∀ i s b, (∀ x y, i ≠ .shr x y ∧ i ≠ .shl x y) →
    exec i { s with quirkShift := b } = mapNext (fun t => { t with quirkShift := b }) (exec i s)) ∧
  (∀ x y (s : State), s.quirkShift = true →
    exec (.shr x y) s = exec (.shr x x) s ∧ exec (.shl x y) s = exec (.shl x x) s) ∧
  (∀ x y (s : State), s.quirkShift = false →
    exec (.shr x y) s = exec (.shr x x) (s.writeV x (s.readV y)) ∧
    exec (.shl x y) s = exec (.shl x x) (s.writeV x (s.readV y)))

/-- R23 in part: no step and no host event writes the strap `clipping`, and no instruction but `DXYN` reads it; what it
selects is in `DrawXorsSprite`. -/
def Obligations.ClippingReadByDrawOnly : Prop :=
  (∀ s t, step s = .next t → t.clipping = s.clipping) ∧
  (∀ (s : State) e, (s.hostEvent e).clipping = s.clipping) ∧
  (∀ i s c, (∀ x y n, i ≠ .drw x y n) →
    exec i { s with clipping := c } = mapNext (fun t => { t with clipping := c }) (exec i s))

/-- R21: a step changes `dt` only if it executes `FX15` and `st` only if it executes `FX18`; the host's planned events,
which fall before it, are all that else does. -/
def Obligations.TimersChangeOnlyByTheirInstructions : Prop :=
  ∀ s t : State, step s = .next t →
    ((∀ x, decode s.deliver.fetchWord ≠ .ok (.ldDtVx x)) → t.dt = s.deliver.dt) ∧
    ((∀ x, decode s.deliver.fetchWord ≠ .ok (.ldStVx x)) → t.st = s.deliver.st)

/-- R33's table: the six instructions that write VF as a side effect and the value each leaves in it, and that every other
instruction leaves VF alone unless its X field names register 15. The value of `DXYN` is stated on cells that hold 0 or
1, the host's duty (R27), in a frame buffer in canonical form; that it is the value left where `X` is 15 too is decision
D11 (log entry 7). -/
def Obligations.FlagWrittenOnlyAsListed : Prop :=
  (∀ x y s t, exec (.addVy x y) s = .next t →
    t.readV 15 = if (s.readV x).toNat + (s.readV y).toNat > 255 then 1 else 0) ∧
  (∀ x y s t, exec (.sub x y) s = .next t →
    t.readV 15 = if (s.readV x).toNat ≥ (s.readV y).toNat then 1 else 0) ∧
  (∀ x y s t, exec (.subn x y) s = .next t →
    t.readV 15 = if (s.readV y).toNat ≥ (s.readV x).toNat then 1 else 0) ∧
  (∀ x y s t, exec (.shr x y) s = .next t →
    (t.readV 15).toNat = (s.readV (if s.quirkShift then x else y)).toNat % 2) ∧
  (∀ x y s t, exec (.shl x y) s = .next t →
    (t.readV 15).toNat = (s.readV (if s.quirkShift then x else y)).toNat / 128) ∧
  (∀ x y n s t, s.Inv → s.CellsAreBits → exec (.drw x y n) s = .next t →
    ((s.ireg.toNat + n.toNat ≤ 4096 ∧ ∃ cx < 64, ∃ cy < 32, DrawCovers s x y n cx cy ∧ s.pixel cx cy = 1) →
      t.readV 15 = 1) ∧
    (¬(s.ireg.toNat + n.toNat ≤ 4096 ∧ ∃ cx < 64, ∃ cy < 32, DrawCovers s x y n cx cy ∧ s.pixel cx cy = 1) →
      t.readV 15 = 0)) ∧
  (∀ i s t, exec i s = .next t → writesFlag i = false → xOf i ≠ some 15 → t.readV 15 = s.readV 15)

/-- R20: no instruction but `FX18` and no host event but TICK writes `st`, and no instruction reads it: two states that
differ in `st` alone step to states that differ in `st` at most. -/
def Obligations.SoundTimerHasNoEffect : Prop :=
  (∀ i s t, exec i s = .next t → t.st ≠ s.st → ∃ x, i = .ldStVx x) ∧
  (∀ (s : State) e, (s.hostEvent e).st ≠ s.st → e = .tick) ∧
  (∀ (s t : State) (b : Byte), step s = .next t →
    ∃ t', step { s with st := b } = .next t' ∧ { t' with st := t.st } = t)

/-- R28: the DIAG port is never read back: a step appends to it at most one record, which one does not depend on what
was recorded before, and nothing else in the next state does either. -/
def Obligations.DiagIsNeverReadBack : Prop :=
  ∀ s t : State, step s = .next t →
    ∃ rs : List Report, rs.length ≤ 1 ∧ t.diag = s.diag ++ rs ∧
      ∀ d : List Report, step { s with diag := d } = .next { t with diag := d ++ rs }

/-! ## Frames (10_state.md R31, 00_scope.md R7, decision D27, log entry 10) -/

/-- Jumps and conditional skips change `pc` and nothing else. -/
def Obligations.JumpsAndSkipsChangeOnlyPc : Prop :=
  ∀ (i : Instr) (s t : State),
    ((∃ nnn, i = .jp nnn ∨ i = .jpV0 nnn) ∨ (∃ x nn, i = .seNn x nn ∨ i = .sneNn x nn) ∨
      (∃ x y n, i = .seVy x y n ∨ i = .sneVy x y n) ∨ (∃ x, i = .skp x ∨ i = .sknp x)) →
    exec i s = .next t → Unchanged { pc := true } s t

/-- A call changes `pc`, `sp` and the entry `sp` names; a return changes `pc` and `sp`. -/
def Obligations.CallAndReturnFrame : Prop :=
  (∀ nnn s t, exec (.call nnn) s = .next t →
    Unchanged { pc := true, sp := true, stack := fun j => j == s.sp } s t) ∧
  (∀ s t, exec .ret s = .next t → Unchanged { pc := true, sp := true } s t)

/-- The instructions whose one destination is `V[X]`, and `FX65`, whose destinations are `V[0]` to `V[X]`: no other
register, no flag, nothing else; of them only `FX0A` may change `pc`, and only `FX65` may leave a record. -/
def Obligations.RegisterWritersFrame : Prop :=
  (∀ (i : Instr) (x : Reg) (s t : State),
    ((∃ nn, i = .ldNn x nn ∨ i = .addNn x nn) ∨
      (∃ y, i = .ldVy x y ∨ i = .orVy x y ∨ i = .andVy x y ∨ i = .xorVy x y) ∨ i = .ldVxDt x) →
    exec i s = .next t → Unchanged { regs := fun y => y == x } s t) ∧
  (∀ x s t, exec (.ldVxK x) s = .next t → Unchanged { regs := fun y => y == x, pc := true } s t) ∧
  (∀ x s t, exec (.load x) s = .next t →
    Unchanged { regs := fun y => decide (y.toNat ≤ x.toNat), diag := true } s t)

/-- The flag-writing operations change `V[X]` and VF and nothing else. -/
def Obligations.FlagWritersFrame : Prop :=
  ∀ (i : Instr) (x y : Reg) (s t : State),
    (i = .addVy x y ∨ i = .sub x y ∨ i = .subn x y ∨ i = .shr x y ∨ i = .shl x y) →
    exec i s = .next t → Unchanged { regs := fun r => r == x || r == 15 } s t

/-- `ANNN` and `FX1E` change `I`, `FX15` changes `dt`, `FX18` changes `st`, and none of them anything else. -/
def Obligations.IndexAndTimerWritersFrame : Prop :=
  (∀ nnn s t, exec (.ldI nnn) s = .next t → Unchanged { ireg := true } s t) ∧
  (∀ x s t, exec (.addI x) s = .next t → Unchanged { ireg := true } s t) ∧
  (∀ x s t, exec (.ldDtVx x) s = .next t → Unchanged { dt := true } s t) ∧
  (∀ x s t, exec (.ldStVx x) s = .next t → Unchanged { st := true } s t)

/-- `FX33` stores to the 3 bytes and `FX55` to the `X + 1` bytes from the effective address on, which is the function
the meaning itself uses; every other byte and everything else, `I` included, is unchanged, but for a record where the
transfer is refused. -/
def Obligations.StoringFrame : Prop :=
  (∀ x s t a, exec (.bcd x) s = .next t → a = effAddr s 0 →
    Unchanged { mem := fun b => decide (a ≤ b ∧ b < a + 3), diag := true } s t) ∧
  (∀ x s t a, exec (.store x) s = .next t → a = effAddr s 0 →
    Unchanged { mem := fun b => decide (a ≤ b ∧ b < a + (x.toNat + 1)), diag := true } s t)

/-- `00E0` changes frame-buffer cells only. `DXYN` changes VF and the cells its lit sprite bits land on, computed by the
function the meaning itself uses; a refused draw may leave a record, and a draw on a cell that holds neither 0 nor 1
uses free values (log entry 4). -/
def Obligations.DisplayFrame : Prop :=
  (∀ s t, exec .cls s = .next t → Unchanged { fb := fun _ => true } s t) ∧
  (∀ x y n s t js, exec (.drw x y n) s = .next t →
    js = spriteTargets s.clipping (anchorX (s.readV x)) (anchorY (s.readV y)) (s.mem.readBytes (effAddr s 0) n.toNat) →
    Unchanged { regs := fun r => r == 15, fb := fun j => decide (j ∈ js), diag := true, free := true } s t)

/-! ## Control flow -/

/-- R90: `1NNN` sets `pc` to `NNN` exactly, for every `NNN` and in every state. -/
def Obligations.JumpSetsPcExactly : Prop :=
  ∀ (nnn : Addr12) (s : State), ∃ t, exec (.jp nnn) s = .next t ∧ t.pc.toNat = nnn.toNat ∧
    NoFlag s t ∧ NoException s t

/-- R91: `BNNN` sets `pc` to `NNN + V[0]`, which 16 bits always hold; it is not reduced to the memory size, decision D22
(log entry 10). -/
def Obligations.JumpOffsetAddsRegisterZero : Prop :=
  ∀ (nnn : Addr12) (s : State), ∃ t, exec (.jpV0 nnn) s = .next t ∧
    t.pc.toNat = nnn.toNat + (s.readV 0).toNat ∧ NoFlag s t ∧ NoException s t

/-- R92: `2NNN` at `p` stores `p + 2` in the entry `sp` names, moves `sp` on by one modulo 16, and goes to `NNN`. -/
def Obligations.CallPushesReturnAddress : Prop :=
  ∀ (nnn : Addr12) (s : State) (p : Word), s.pc = p + 2 →
    ∃ t, exec (.call nnn) s = .next t ∧ t.readStack s.sp = p + 2 ∧ t.sp.toNat = (s.sp.toNat + 1) % 16 ∧
      t.pc.toNat = nnn.toNat ∧ NoFlag s t ∧ NoException s t

/-- R93: `00EE` moves `sp` back by one modulo 16, 0 to 15, and takes all 16 bits of the entry it then names; the entry
stays. -/
def Obligations.ReturnPopsIntoPc : Prop :=
  ∀ s : State, ∃ t, exec .ret s = .next t ∧ t.sp.toNat = (s.sp.toNat + 15) % 16 ∧ t.pc = s.readStack t.sp ∧
    (∀ j, t.readStack j = s.readStack j) ∧ NoFlag s t ∧ NoException s t

/-- R18, R101, decision D4 (log entry 10): up to 16 nested calls return in reverse order, each to the address its call
pushed, and `sp` ends where it began. -/
def Obligations.NestedCallsReturnInReverse : Prop :=
  ∀ (s : State) (cs : List (Word × Addr12)), cs.length ≤ 16 →
    (∀ k, k < cs.length →
      (afterReturn^[k + 1] (cs.foldl afterCall s)).pc = (cs.reverse.map Prod.fst).getD k 0) ∧
    (afterReturn^[cs.length] (cs.foldl afterCall s)).sp = s.sp

/-- R101, decision D4 (log entry 10): a 17th nested call overwrites the oldest return address, unseen; the other 15 stay. -/
def Obligations.SeventeenthCallOverwritesOldest : Prop :=
  ∀ (s : State) (cs : List (Word × Addr12)), cs.length = 17 →
    (cs.foldl afterCall s).readStack s.sp = (cs.map Prod.fst).getD 16 0 ∧
    (∀ k : Nat, 1 ≤ k → k < 16 →
      (cs.foldl afterCall s).readStack (s.sp + BitVec.ofNat 4 k) = (cs.map Prod.fst).getD k 0) ∧
    (cs.foldl afterCall s).sp = s.sp + 1 ∧
    (cs.foldl afterCall s).fault = s.fault ∧ (cs.foldl afterCall s).diag = s.diag

/-- R94, R95: `3XNN` and `4XNN` add 2 to `pc` once more when `V[X]` is, or is not, `NN`; else they leave it at `p + 2`. -/
def Obligations.ImmediateSkips : Prop :=
  ∀ (x : Reg) (nn : Byte) (s : State) (p : Word), s.pc = p + 2 →
    (∃ t, exec (.seNn x nn) s = .next t ∧ t.pc = (if (s.readV x).toNat = nn.toNat then p + 4 else p + 2) ∧
      NoFlag s t ∧ NoException s t) ∧
    (∃ t, exec (.sneNn x nn) s = .next t ∧ t.pc = (if (s.readV x).toNat = nn.toNat then p + 2 else p + 4) ∧
      NoFlag s t ∧ NoException s t)

/-- R96, R97, for every value of the low nibble, which decision D2 makes ignored (log entry 6): `5XYn` skips when `V[X]` is
`V[Y]`, `9XYn` when it is not. -/
def Obligations.RegisterSkips : Prop :=
  ∀ (x y : Reg) (n : Nibble) (s : State) (p : Word), s.pc = p + 2 →
    (∃ t, exec (.seVy x y n) s = .next t ∧
      t.pc = (if (s.readV x).toNat = (s.readV y).toNat then p + 4 else p + 2)) ∧
    (∃ t, exec (.sneVy x y n) s = .next t ∧
      t.pc = (if (s.readV x).toNat = (s.readV y).toNat then p + 2 else p + 4))

/-- R98, R99: `EX9E` skips when a key is down whose code is all of `V[X]`, `EXA1` exactly when `EX9E` would not; that the
compare is of all 8 bits is decision D13 (log entry 8). -/
def Obligations.KeySkips : Prop :=
  ∀ (x : Reg) (s : State) (p : Word), s.pc = p + 2 →
    (∃ t, exec (.skp x) s = .next t ∧
      ((∃ k, s.key = some k ∧ k.toNat = (s.readV x).toNat) → t.pc = p + 4) ∧
      (¬(∃ k, s.key = some k ∧ k.toNat = (s.readV x).toNat) → t.pc = p + 2)) ∧
    (∃ t, exec (.sknp x) s = .next t ∧
      ((s.key = none ∨ ∃ k, s.key = some k ∧ k.toNat ≠ (s.readV x).toNat) → t.pc = p + 4) ∧
      (¬(s.key = none ∨ ∃ k, s.key = some k ∧ k.toNat ≠ (s.readV x).toNat) → t.pc = p + 2))

/-- R100: with a key down `FX0A` loads its code, leaves the latch alone and goes on; with none it goes back to `p` and
writes nothing else, so that a step on it leaves the whole state as it was, but for the host events planned before it,
which go on arriving. -/
def Obligations.KeyWait : Prop :=
  (∀ (x : Reg) (s : State) (k : Nibble), s.key = some k →
    ∃ t, exec (.ldVxK x) s = .next t ∧ (t.readV x).toNat = k.toNat ∧ t.pc = s.pc ∧ t.key = some k ∧
      NoFlagBut x s t ∧ NoException s t) ∧
  (∀ (x : Reg) (s : State) (p : Word), s.pc = p + 2 → s.key = none →
    exec (.ldVxK x) s = .next { s with pc := p }) ∧
  (∀ (x : Reg) (s : State), s.fault = none → s.deliver.key = none → s.fetchInBounds = true →
    decode s.fetchWord = .ok (.ldVxK x) → step s = .next s.deliver ∧ (s.schedule = [] → step s = .next s))

/-! ## ALU and immediate loads -/

/-- R111 to R114, bit by bit: copy, OR, AND, XOR into `V[X]`; no flag is written, so VF is as it was unless it is `V[X]`. -/
def Obligations.CopyAndLogicResults : Prop :=
  ∀ (x y : Reg) (s : State),
    (∃ t, exec (.ldVy x y) s = .next t ∧ t.readV x = s.readV y ∧ NoFlagBut x s t ∧ NoException s t) ∧
    (∃ t, exec (.orVy x y) s = .next t ∧
      (∀ b, b < 8 → (t.readV x).getLsbD b = ((s.readV x).getLsbD b || (s.readV y).getLsbD b)) ∧
      NoFlagBut x s t ∧ NoException s t) ∧
    (∃ t, exec (.andVy x y) s = .next t ∧
      (∀ b, b < 8 → (t.readV x).getLsbD b = ((s.readV x).getLsbD b && (s.readV y).getLsbD b)) ∧
      NoFlagBut x s t ∧ NoException s t) ∧
    (∃ t, exec (.xorVy x y) s = .next t ∧
      (∀ b, b < 8 → (t.readV x).getLsbD b = xor ((s.readV x).getLsbD b) ((s.readV y).getLsbD b)) ∧
      NoFlagBut x s t ∧ NoException s t)

/-- R115: the sum modulo 256 and the carry. That with `X = 15` the carry is what remains is decision D11 (log entry 7). -/
def Obligations.AdditionAndCarry : Prop :=
  ∀ (x y : Reg) (s : State), ∃ t, exec (.addVy x y) s = .next t ∧
    (x ≠ 15 → (t.readV x).toNat = ((s.readV x).toNat + (s.readV y).toNat) % 256) ∧
    (t.readV 15).toNat = ((s.readV x).toNat + (s.readV y).toNat) / 256

/-- R116, R118: the two subtractions modulo 256, on integers, and not-borrow. That with `X = 15` the flag is what remains is
decision D11 (log entry 7). -/
def Obligations.SubtractionsAndNotBorrow : Prop :=
  ∀ (x y : Reg) (s : State),
    (∃ t, exec (.sub x y) s = .next t ∧
      (x ≠ 15 → ((t.readV x).toNat : Int) = ((s.readV x).toNat - (s.readV y).toNat : Int) % 256) ∧
      t.readV 15 = if (s.readV x).toNat < (s.readV y).toNat then 0 else 1) ∧
    (∃ t, exec (.subn x y) s = .next t ∧
      (x ≠ 15 → ((t.readV x).toNat : Int) = ((s.readV y).toNat - (s.readV x).toNat : Int) % 256) ∧
      t.readV 15 = if (s.readV y).toNat < (s.readV x).toNat then 0 else 1)

/-- R117, R119: the shifts by one of `V[X]` or, without the quirk, of `V[Y]`, bit by bit, and the bit that leaves. That
with `X = 15` the flag is what remains is decision D11 (log entry 7). -/
def Obligations.ShiftsByOne : Prop :=
  ∀ (x y : Reg) (s : State) (b : Byte), b = s.readV (if s.quirkShift then x else y) →
    (∃ t, exec (.shr x y) s = .next t ∧
      (x ≠ 15 → (t.readV x).getLsbD 7 = false ∧ ∀ k, k < 7 → (t.readV x).getLsbD k = b.getLsbD (k + 1)) ∧
      t.readV 15 = if b.getLsbD 0 then 1 else 0) ∧
    (∃ t, exec (.shl x y) s = .next t ∧
      (x ≠ 15 → (t.readV x).getLsbD 0 = false ∧ ∀ k, k < 7 → (t.readV x).getLsbD (k + 1) = b.getLsbD k) ∧
      t.readV 15 = if b.getLsbD 7 then 1 else 0)

/-- R150, R152: `6XNN` loads `NN` into `V[X]`, `ANNN` loads `NNN` into `I`, whose bits 15 to 12 become 0; no flag. -/
def Obligations.ImmediateLoads : Prop :=
  (∀ (x : Reg) (nn : Byte) (s : State), ∃ t, exec (.ldNn x nn) s = .next t ∧ t.readV x = nn ∧
    NoFlagBut x s t ∧ NoException s t) ∧
  (∀ (nnn : Addr12) (s : State), ∃ t, exec (.ldI nnn) s = .next t ∧ t.ireg.toNat = nnn.toNat ∧
    NoFlag s t ∧ NoException s t)

/-- R151: `7XNN` adds modulo 256 and leaves VF alone, also when the sum passes 255; decision D7 (log entry 10). -/
def Obligations.ImmediateAddition : Prop :=
  ∀ (x : Reg) (nn : Byte) (s : State), ∃ t, exec (.addNn x nn) s = .next t ∧
    (t.readV x).toNat = ((s.readV x).toNat + nn.toNat) % 256 ∧ NoFlagBut x s t ∧ NoException s t

/-! ## Memory transfer -/

/-- R131 to R133: `FX07` reads the delay timer, `FX15` writes it, `FX18` writes the sound timer; which opcode does which is
decision D8 (log entry 12). -/
def Obligations.TimerTransfers : Prop :=
  ∀ (x : Reg) (s : State),
    (∃ t, exec (.ldVxDt x) s = .next t ∧ t.readV x = s.dt ∧ t.dt = s.dt) ∧
    (∃ t, exec (.ldDtVx x) s = .next t ∧ t.dt = s.readV x ∧ t.st = s.st) ∧
    (∃ t, exec (.ldStVx x) s = .next t ∧ t.st = s.readV x ∧ t.dt = s.dt)

/-- R134: `FX1E` adds `V[X]` to `I` modulo 65536 and writes no flag, whatever the sum passes. -/
def Obligations.IndexAddition : Prop :=
  ∀ (x : Reg) (s : State), ∃ t, exec (.addI x) s = .next t ∧
    t.ireg.toNat = (s.ireg.toNat + (s.readV x).toNat) % 65536 ∧ (∀ y, t.readV y = s.readV y) ∧
    NoException s t

/-- R135: where the three bytes are inside memory `FX33` stores three decimal digits, hundreds first, that make up `V[X]`;
that it is bounds-checked at all is decision D9 (log entry 11). -/
def Obligations.BcdStoresDecimalDigits : Prop :=
  ∀ (x : Reg) (s : State), s.Inv → s.ireg.toNat + 2 < 4096 →
    ∃ t, exec (.bcd x) s = .next t ∧
      (let h := (t.mem.read s.ireg.toNat).toNat
       let d := (t.mem.read (s.ireg.toNat + 1)).toNat
       let o := (t.mem.read (s.ireg.toNat + 2)).toNat
       h ≤ 2 ∧ d ≤ 9 ∧ o ≤ 9 ∧ h * 100 + d * 10 + o = (s.readV x).toNat) ∧ t.diag = s.diag

/-- R136: where the block is inside memory `FX55` stores `V[0]` to `V[X]` at `I` to `I + X`; `I` stays, decision D16 (log
entry 11). -/
def Obligations.StoreSavesRegisterBlock : Prop :=
  ∀ (x : Reg) (s : State), s.Inv → s.ireg.toNat + x.toNat < 4096 →
    ∃ t, exec (.store x) s = .next t ∧ (∀ y : Reg, y.toNat ≤ x.toNat →
      t.mem.read (s.ireg.toNat + y.toNat) = s.readV y) ∧ t.ireg = s.ireg ∧ t.diag = s.diag

/-- R137: where the block is inside memory `FX65` loads `V[0]` to `V[X]` from `I` to `I + X`; `I` stays, decision D16 (log
entry 11). -/
def Obligations.LoadRestoresRegisterBlock : Prop :=
  ∀ (x : Reg) (s : State), s.ireg.toNat + x.toNat < 4096 →
    ∃ t, exec (.load x) s = .next t ∧ (∀ y : Reg, y.toNat ≤ x.toNat →
      t.readV y = s.mem.read (s.ireg.toNat + y.toNat)) ∧ t.ireg = s.ireg ∧ t.diag = s.diag

/-- R138, R162, R56: a transfer any part of which is outside memory, the sum taken without wrap, writes nothing at all and
leaves one record with the instruction's word and its address; decisions D9, D10, D20 (log entries 9, 11). -/
def Obligations.TransferOutsideMemoryIsRefused : Prop :=
  ∀ (x : Reg) (s : State) (p : Word), s.pc = p + 2 →
    (4096 ≤ s.ireg.toNat + 2 →
      exec (.bcd x) s = .next { s with diag := s.diag ++ [⟨.transferOutOfBounds, encode (.bcd x), p⟩] }) ∧
    (4096 ≤ s.ireg.toNat + x.toNat →
      exec (.store x) s = .next { s with diag := s.diag ++ [⟨.transferOutOfBounds, encode (.store x), p⟩] } ∧
      exec (.load x) s = .next { s with diag := s.diag ++ [⟨.transferOutOfBounds, encode (.load x), p⟩] })

/-- The round trip of 95_test_vectors.md T9 (R136, R137): registers saved by `FX55` and loaded from the same place in any
later state whose memory still holds them have their values again. -/
def Obligations.StoreThenLoadRoundTrip : Prop :=
  ∀ (x : Reg) (s t u : State), s.Inv → s.ireg.toNat + x.toNat < 4096 → exec (.store x) s = .next t →
    u.mem = t.mem → u.ireg = s.ireg →
    ∃ v, exec (.load x) u = .next v ∧ ∀ y : Reg,
      v.readV y = if y.toNat ≤ x.toNat then s.readV y else u.readV y

/-- R53: a word that `FX55` has just stored is what the next fetch from there executes, with nothing to do in between. -/
def Obligations.StoredWordIsFetchedNext : Prop :=
  ∀ (x : Reg) (s t : State) (k : Nat) (i : Instr), s.Inv → s.ireg.toNat + x.toNat < 4096 → k + 1 ≤ x.toNat →
    exec (.store x) s = .next t → t.fault = none → t.schedule = [] → t.pc.toNat = s.ireg.toNat + k →
    decode (wordOfBytes (s.readV (BitVec.ofNat 4 k)) (s.readV (BitVec.ofNat 4 (k + 1)))) = .ok i →
    step t = exec i { t with pc := t.pc + 2 }

/-! ## Display -/

/-- R140: `00E0` makes every cell 0, whatever it held, and does not write VF. -/
def Obligations.ClearZeroesEveryCell : Prop :=
  ∀ s : State, ∃ t, exec .cls s = .next t ∧ (∀ cx cy, cx < 64 → cy < 32 → t.pixel cx cy = 0) ∧
    NoFlag s t ∧ NoException s t

/-- R141, R142 (a), (b): a draw whose rows are inside memory XORs the sprite into the frame buffer: a cell under a lit bit is
toggled, every other cell stays, and VF is 1 exactly when a lit bit fell on a cell that held 1. On cells that hold 0 or
1, the host's duty; coordinates read before VF is cleared, decision D12 (log entry 7). The second
clause, that without that duty the draw still answers a next state, is for cells that hold neither 0 nor 1 the model's
choice, the DESIGN CHOICE of log entry 4: the spec gives a draw over them no meaning (U9). -/
def Obligations.DrawXorsSprite : Prop :=
  (∀ (x y : Reg) (n : Nibble) (s : State), s.Inv → s.CellsAreBits → s.ireg.toNat + n.toNat ≤ 4096 →
    ∃ t, exec (.drw x y n) s = .next t ∧
      (∀ cx cy, cx < 64 → cy < 32 →
        (DrawCovers s x y n cx cy → t.pixel cx cy = s.pixel cx cy ^^^ 1) ∧
        (¬DrawCovers s x y n cx cy → t.pixel cx cy = s.pixel cx cy)) ∧
      ((∃ cx < 64, ∃ cy < 32, DrawCovers s x y n cx cy ∧ s.pixel cx cy = 1) → t.readV 15 = 1) ∧
      (¬(∃ cx < 64, ∃ cy < 32, DrawCovers s x y n cx cy ∧ s.pixel cx cy = 1) → t.readV 15 = 0)) ∧
  (∀ (x y : Reg) (n : Nibble) (s : State), s.ireg.toNat + n.toNat ≤ 4096 →
    ∃ t, exec (.drw x y n) s = .next t ∧ t.diag = s.diag)

/-- R143: a draw whose rows reach beyond memory clears VF, leaves one record, and does nothing else; the exact bound is
decision D23 (log entry 13). -/
def Obligations.DrawOutsideMemoryIsRefused : Prop :=
  ∀ (x y : Reg) (n : Nibble) (s : State) (p : Word), s.pc = p + 2 → 4096 < s.ireg.toNat + n.toNat →
    exec (.drw x y n) s = .next { s.writeV 15 0 with
      diag := s.diag ++ [⟨.spriteReadOutOfBounds, encode (.drw x y n), p⟩] }

/-- R142 (b): drawing the same sprite at the same anchor twice restores the buffer, and the second draw collides exactly
where the first one lit a cell. `X = 15` and `Y = 15` are left to `DrawXorsSprite`: there the first draw may move the
anchor of the second. -/
def Obligations.DrawTwiceRestoresBuffer : Prop :=
  ∀ (x y : Reg) (n : Nibble) (s t : State), s.Inv → s.CellsAreBits → s.ireg.toNat + n.toNat ≤ 4096 → x ≠ 15 → y ≠ 15 →
    exec (.drw x y n) s = .next t →
    ∃ u, exec (.drw x y n) t = .next u ∧
      (∀ cx cy, cx < 64 → cy < 32 → u.pixel cx cy = s.pixel cx cy) ∧
      ((∃ cx < 64, ∃ cy < 32, DrawCovers s x y n cx cy ∧ s.pixel cx cy = 0) → u.readV 15 = 1) ∧
      (¬(∃ cx < 64, ∃ cy < 32, DrawCovers s x y n cx cy ∧ s.pixel cx cy = 0) → u.readV 15 = 0)

/-- R142 (a): within one draw no cell is touched twice, in either edge mode, and none is outside the buffer. -/
def Obligations.SpriteTouchesNoCellTwice : Prop :=
  ∀ (clip : Bool) (x0 y0 : Nat) (rows : List Byte), x0 < 64 → y0 < 32 → rows.length ≤ 15 →
    (spriteTargets clip x0 y0 rows).Nodup ∧ ∀ j ∈ spriteTargets clip x0 y0 rows, j < 2048

/-! ## The host's moves -/

/-- R171 to R173: TICK counts each timer down on its own and stops it at 0, so `k` ticks take `k` off or leave 0; KEY_DOWN
replaces the latched code and KEY_UP clears it; nothing else changes. Decisions D14, D18 (log entries 8, 14). -/
def Obligations.HostEventsEffects : Prop :=
  (∀ (s : State) (k : Nat), ((fun u : State => u.hostEvent .tick)^[k] s) =
    { s with dt := BitVec.ofNat 8 (s.dt.toNat - k), st := BitVec.ofNat 8 (s.st.toNat - k) }) ∧
  (∀ (s : State) (k : Nibble), s.hostEvent (.keyDown k) = { s with key := some k }) ∧
  (∀ s : State, s.hostEvent .keyUp = { s with key := none })

/-- R30, R190, R191: what RESET leaves, for every value of the straps, of the OPEN parameters and of the host's frame buffer:
execution starts at 0x200, memory and timers are 0, the stack pointer is 0, no key is down, nothing is faulted or
reported. Decision D5 (log entry 2). -/
def Obligations.ResetValues : Prop :=
  ∀ (qs cl : Bool) (o : OpenReset) (fb : Memory) (s : State),
    (s = State.construct qs cl o fb ∨ ∃ u : State, u.fb = fb ∧ s = u.hostReset qs cl o) →
    s.pc.toNat = 0x200 ∧ (∀ a, s.mem.read a = 0) ∧ s.dt = 0 ∧ s.st = 0 ∧ s.sp = 0 ∧ s.key = none ∧
    s.quirkShift = qs ∧ s.clipping = cl ∧ s.fault = none ∧ s.diag = [] ∧ s.fb = fb ∧
    s.v = o.v ∧ s.ireg = o.ireg ∧ s.stack = o.stack

/-- R192: LOAD after RESET copies the first `min(L, 3584)` bytes of the stream to 0x200 on, leaves every other byte 0, and
writes nothing else. -/
def Obligations.LoadCopiesProgramVerbatim : Prop :=
  ∀ (qs cl : Bool) (o : OpenReset) (fb : Memory) (bytes : List Byte) (s t : State),
    s = State.construct qs cl o fb → t = s.load bytes →
    (∀ k, k < min bytes.length 3584 → t.mem.read (0x200 + k) = bytes.getD k 0) ∧
    (∀ a, ¬(0x200 ≤ a ∧ a < 0x200 + min bytes.length 3584) → t.mem.read a = 0) ∧
    t = { s with mem := t.mem }

/-- R86 (a), decision D21 (log entry 10): once `pc` is at a jump to itself, no step changes any state; only the host's
planned events do. -/
def Obligations.SelfJumpIsAnEnd : Prop :=
  ∀ s : State, s.fault = none → s.AtSelfJump → step s = .next s.deliver ∧ s.deliver.AtSelfJump
end

