-- ==== Sys2Proof/Laws/Memory.lean ====
section
/-! SUPPORT. The store (main memory and the frame buffer): read after write, block writes and reads, that every
operation keeps the canonical form, and that stores in canonical form are equal when they read alike. -/

namespace Sys2Proof.Machine

theorem Memory.wfFrom_mono {size lo lo' : Nat} (h : lo' ≤ lo) :
    ∀ {m : Memory}, m.wfFrom size lo = true → m.wfFrom size lo' = true
  | [], _ => rfl
  | (k, b) :: m, hm => by
    simp only [wfFrom, Bool.and_eq_true, decide_eq_true_eq] at hm ⊢
    exact ⟨⟨⟨h.trans hm.1.1.1, hm.1.1.2⟩, hm.1.2⟩, hm.2⟩

/-- Below its first address a store in canonical form lists nothing. -/
theorem Memory.read_below {size a : Nat} : ∀ {lo : Nat} {m : Memory}, m.wfFrom size lo = true → a < lo →
    m.read a = Memory.unlisted
  | _, [], _, _ => rfl
  | lo, (k, b) :: m, hm, ha => by
    simp only [wfFrom, Bool.and_eq_true, decide_eq_true_eq] at hm
    rw [Memory.read, if_neg (by omega)]
    exact Memory.read_below hm.2 (by omega)

/-- At or above its size a store in canonical form lists nothing. -/
theorem Memory.read_beyond {size a : Nat} (ha : size ≤ a) : ∀ {lo : Nat} {m : Memory}, m.wfFrom size lo = true →
    m.read a = Memory.unlisted
  | _, [], _ => rfl
  | lo, (k, b) :: m, hm => by
    simp only [wfFrom, Bool.and_eq_true, decide_eq_true_eq] at hm
    rw [Memory.read, if_neg (by omega)]
    exact Memory.read_beyond ha hm.2

theorem Memory.wfFrom_write {size a : Nat} {b : Byte} (ha : a < size) : ∀ {lo : Nat} {m : Memory},
    lo ≤ a → m.wfFrom size lo = true → (m.write a b).wfFrom size lo = true
  | lo, [], hlo, _ => by
    unfold Memory.write
    split <;> simp_all [wfFrom]
  | lo, (k, c) :: m, hlo, hm => by
    have hm' := hm
    simp only [wfFrom, Bool.and_eq_true, decide_eq_true_eq] at hm'
    obtain ⟨⟨⟨h1, h2⟩, h3⟩, h4⟩ := hm'
    unfold Memory.write
    split
    · split
      · exact hm
      · simp only [wfFrom, Bool.and_eq_true, decide_eq_true_eq]
        exact ⟨⟨⟨hlo, ha⟩, ‹_›⟩, ⟨⟨by omega, h2⟩, h3⟩, h4⟩
    · split
      · subst_vars
        split
        · exact Memory.wfFrom_mono (by omega) h4
        · simp only [wfFrom, Bool.and_eq_true, decide_eq_true_eq]
          exact ⟨⟨⟨hlo, ha⟩, ‹_›⟩, h4⟩
      · simp only [wfFrom, Bool.and_eq_true, decide_eq_true_eq]
        exact ⟨⟨⟨h1, h2⟩, h3⟩, Memory.wfFrom_write ha (by omega) h4⟩

/-- A write below the size keeps the canonical form. -/
theorem Memory.wf_write {size a : Nat} {b : Byte} {m : Memory} (ha : a < size) (hm : m.wf size = true) :
    (m.write a b).wf size = true := Memory.wfFrom_write ha (Nat.zero_le a) hm

theorem Memory.read_write_from {size a : Nat} {b : Byte} (c : Nat) : ∀ {lo : Nat} {m : Memory},
    m.wfFrom size lo = true → (m.write a b).read c = if c = a then b else m.read c
  | lo, [], _ => by
    unfold Memory.write
    split
    · subst_vars; simp [Memory.read]
    · simp only [Memory.read, eq_comm (a := a)]
  | lo, (k, d) :: m, hm => by
    have hm' := hm
    simp only [wfFrom, Bool.and_eq_true, decide_eq_true_eq] at hm'
    have hlow : ∀ x, x < k + 1 → Memory.read m x = Memory.unlisted := fun x hx => Memory.read_below hm'.2 hx
    have ih := Memory.read_write_from (a := a) (b := b) c hm'.2
    unfold Memory.write
    split
    · split
      · by_cases hc : c = a
        · subst hc; rw [if_pos rfl, Memory.read, if_neg (by omega), hlow c (by omega)]; exact (‹b = _›).symm
        · rw [if_neg hc]
      · rw [Memory.read]; simp only [eq_comm (a := a)]
    · split
      · rename_i hak
        subst hak
        split
        · by_cases hc : c = a
          · subst hc; rw [if_pos rfl, hlow c (by omega)]; exact (‹b = _›).symm
          · rw [if_neg hc, Memory.read, if_neg (Ne.symm hc)]
        · rw [Memory.read, Memory.read]
          by_cases hc : a = c
          · rw [if_pos hc, if_pos hc.symm]
          · rw [if_neg hc, if_neg (Ne.symm hc), if_neg hc]
      · rw [Memory.read, ih, Memory.read]
        by_cases hk : k = c
        · subst hk; rw [if_pos rfl, if_neg (by omega), if_pos rfl]
        · rw [if_neg hk, if_neg hk]

/-- Read after write, in a store in canonical form. -/
theorem Memory.read_write {size a c : Nat} {b : Byte} {m : Memory} (hm : m.wf size = true) :
    (m.write a b).read c = if c = a then b else m.read c := Memory.read_write_from c hm

/-- A write leaves every other address alone, in any store. -/
theorem Memory.read_write_ne {a c : Nat} {b : Byte} (h : c ≠ a) : ∀ {m : Memory}, (m.write a b).read c = m.read c
  | [] => by
    unfold Memory.write
    split
    · rfl
    · simp [Memory.read, Ne.symm h]
  | (k, d) :: m => by
    unfold Memory.write
    split
    · split
      · rfl
      · rw [Memory.read, if_neg (Ne.symm h)]
    · split
      · rename_i hk
        subst hk
        split
        · rw [Memory.read, if_neg (Ne.symm h)]
        · rw [Memory.read, Memory.read, if_neg (Ne.symm h), if_neg (Ne.symm h)]
      · rw [Memory.read, Memory.read, Memory.read_write_ne h]

/-- A block write leaves every address outside the block alone, in any store. -/
theorem Memory.read_writeBytes_outside {c : Nat} : ∀ {bs : List Byte} {a : Nat} {m : Memory},
    ¬(a ≤ c ∧ c < a + bs.length) → (m.writeBytes a bs).read c = m.read c
  | [], _, _, _ => rfl
  | b :: bs, a, m, h => by
    simp only [List.length_cons] at h
    rw [Memory.writeBytes, Memory.read_writeBytes_outside (by omega), Memory.read_write_ne (by omega)]

theorem Memory.wf_writeBytes {size : Nat} : ∀ {bs : List Byte} {a : Nat} {m : Memory},
    a + bs.length ≤ size → m.wf size = true → (m.writeBytes a bs).wf size = true
  | [], _, _, _, hm => hm
  | b :: bs, a, m, ha, hm => by
    simp only [List.length_cons] at ha
    exact Memory.wf_writeBytes (bs := bs) (by omega) (Memory.wf_write (by omega) hm)

/-- What a block write leaves: the block's bytes at its addresses, every other address as it was. -/
theorem Memory.read_writeBytes {size c : Nat} : ∀ {bs : List Byte} {a : Nat} {m : Memory},
    a + bs.length ≤ size → m.wf size = true →
    (m.writeBytes a bs).read c =
      if a ≤ c ∧ c < a + bs.length then bs.getD (c - a) 0 else m.read c
  | [], a, m, _, _ => by
    rw [Memory.writeBytes, if_neg (by simp)]
  | b :: bs, a, m, ha, hm => by
    simp only [List.length_cons] at ha ⊢
    rw [Memory.writeBytes, Memory.read_writeBytes (by omega) (Memory.wf_write (by omega) hm), Memory.read_write hm]
    by_cases h1 : a + 1 ≤ c ∧ c < a + 1 + bs.length
    · rw [if_pos h1, if_pos (by omega), show c - a = (c - (a + 1)) + 1 by omega, List.getD_cons_succ]
    · rw [if_neg h1]
      by_cases h2 : c = a
      · subst h2; rw [if_pos rfl, if_pos (by omega), Nat.sub_self, List.getD_cons_zero]
      · rw [if_neg h2, if_neg (by omega)]

@[simp] theorem Memory.length_readBytes (m : Memory) (a n : Nat) : (m.readBytes a n).length = n := by
  simp [Memory.readBytes]

theorem Memory.getD_readBytes (m : Memory) (a n k : Nat) (hk : k < n) : (m.readBytes a n).getD k 0 = m.read (a + k) := by
  simp [Memory.readBytes, hk]

/-- Two stores in canonical form that read alike at every address are the same list. -/
theorem Memory.ext_from {size : Nat} : ∀ {m m' : Memory} {lo : Nat}, m.wfFrom size lo = true →
    m'.wfFrom size lo = true → (∀ a, m.read a = m'.read a) → m = m'
  | [], [], _, _, _, _ => rfl
  | [], (k, b) :: m', lo, _, h', h => by
    simp only [wfFrom, Bool.and_eq_true, decide_eq_true_eq] at h'
    have := h k
    rw [Memory.read, Memory.read, if_pos rfl] at this
    exact absurd this.symm h'.1.2
  | (k, b) :: m, [], lo, h', _, h => by
    simp only [wfFrom, Bool.and_eq_true, decide_eq_true_eq] at h'
    have := h k
    rw [Memory.read, Memory.read, if_pos rfl] at this
    exact absurd this h'.1.2
  | (k, b) :: m, (k', b') :: m', lo, hm, hm', h => by
    simp only [wfFrom, Bool.and_eq_true, decide_eq_true_eq] at hm hm'
    have hk : k = k' := by
      rcases Nat.lt_trichotomy k k' with hlt | heq | hgt
      · have := h k
        rw [Memory.read, if_pos rfl, Memory.read, if_neg (by omega), Memory.read_below hm'.2 (by omega)] at this
        exact absurd this hm.1.2
      · exact heq
      · have := h k'
        rw [Memory.read, if_neg (by omega), Memory.read_below hm.2 (by omega), Memory.read, if_pos rfl] at this
        exact absurd this.symm hm'.1.2
    subst hk
    have hb : b = b' := by have := h k; rwa [Memory.read, if_pos rfl, Memory.read, if_pos rfl] at this
    subst hb
    congr 1
    refine Memory.ext_from hm.2 hm'.2 fun a => ?_
    by_cases ha : k = a
    · subst ha; rw [Memory.read_below hm.2 (by omega), Memory.read_below hm'.2 (by omega)]
    · have := h a
      rwa [Memory.read, if_neg ha, Memory.read, if_neg ha] at this

theorem Memory.ext_of_wf {size : Nat} {m m' : Memory} (hm : m.wf size = true) (hm' : m'.wf size = true)
    (h : ∀ a, m.read a = m'.read a) : m = m' := Memory.ext_from hm hm' h

/-- Reset memory is in canonical form. -/
theorem reset_mem_wf : State.reset.mem.wf Config.memSize = true := rfl

end Sys2Proof.Machine
end

