-- ==== Sys2Proof/Laws/State.lean ====
section
/-! SUPPORT. What each update of State leaves in each field, one lemma a field and update, all by rfl, so that
no later proof unfolds a record update. -/

namespace Sys2Proof.Machine

variable (s : State)

/-! ### writeV -/

@[simp] theorem writeV_v (x : Reg) (b : Byte) : (s.writeV x b).v = s.v.set x.toNat b x.isLt := rfl
@[simp] theorem writeV_pc (x : Reg) (b : Byte) : (s.writeV x b).pc = s.pc := rfl
@[simp] theorem writeV_ireg (x : Reg) (b : Byte) : (s.writeV x b).ireg = s.ireg := rfl
@[simp] theorem writeV_stack (x : Reg) (b : Byte) : (s.writeV x b).stack = s.stack := rfl
@[simp] theorem writeV_sp (x : Reg) (b : Byte) : (s.writeV x b).sp = s.sp := rfl
@[simp] theorem writeV_dt (x : Reg) (b : Byte) : (s.writeV x b).dt = s.dt := rfl
@[simp] theorem writeV_st (x : Reg) (b : Byte) : (s.writeV x b).st = s.st := rfl
@[simp] theorem writeV_key (x : Reg) (b : Byte) : (s.writeV x b).key = s.key := rfl
@[simp] theorem writeV_quirkShift (x : Reg) (b : Byte) : (s.writeV x b).quirkShift = s.quirkShift := rfl
@[simp] theorem writeV_clipping (x : Reg) (b : Byte) : (s.writeV x b).clipping = s.clipping := rfl
@[simp] theorem writeV_mem (x : Reg) (b : Byte) : (s.writeV x b).mem = s.mem := rfl
@[simp] theorem writeV_fb (x : Reg) (b : Byte) : (s.writeV x b).fb = s.fb := rfl
@[simp] theorem writeV_fault (x : Reg) (b : Byte) : (s.writeV x b).fault = s.fault := rfl
@[simp] theorem writeV_diag (x : Reg) (b : Byte) : (s.writeV x b).diag = s.diag := rfl
@[simp] theorem writeV_schedule (x : Reg) (b : Byte) : (s.writeV x b).schedule = s.schedule := rfl
@[simp] theorem writeV_free (x : Reg) (b : Byte) : (s.writeV x b).free = s.free := rfl

/-! ### writeFlag -/

@[simp] theorem writeFlag_v (f : Bool) : (s.writeFlag f).v = s.v.set State.vfIndex.toNat (if f then 1 else 0) State.vfIndex.isLt := rfl
@[simp] theorem writeFlag_pc (f : Bool) : (s.writeFlag f).pc = s.pc := rfl
@[simp] theorem writeFlag_ireg (f : Bool) : (s.writeFlag f).ireg = s.ireg := rfl
@[simp] theorem writeFlag_stack (f : Bool) : (s.writeFlag f).stack = s.stack := rfl
@[simp] theorem writeFlag_sp (f : Bool) : (s.writeFlag f).sp = s.sp := rfl
@[simp] theorem writeFlag_dt (f : Bool) : (s.writeFlag f).dt = s.dt := rfl
@[simp] theorem writeFlag_st (f : Bool) : (s.writeFlag f).st = s.st := rfl
@[simp] theorem writeFlag_key (f : Bool) : (s.writeFlag f).key = s.key := rfl
@[simp] theorem writeFlag_quirkShift (f : Bool) : (s.writeFlag f).quirkShift = s.quirkShift := rfl
@[simp] theorem writeFlag_clipping (f : Bool) : (s.writeFlag f).clipping = s.clipping := rfl
@[simp] theorem writeFlag_mem (f : Bool) : (s.writeFlag f).mem = s.mem := rfl
@[simp] theorem writeFlag_fb (f : Bool) : (s.writeFlag f).fb = s.fb := rfl
@[simp] theorem writeFlag_fault (f : Bool) : (s.writeFlag f).fault = s.fault := rfl
@[simp] theorem writeFlag_diag (f : Bool) : (s.writeFlag f).diag = s.diag := rfl
@[simp] theorem writeFlag_schedule (f : Bool) : (s.writeFlag f).schedule = s.schedule := rfl
@[simp] theorem writeFlag_free (f : Bool) : (s.writeFlag f).free = s.free := rfl

/-! ### writeResultAndFlag -/

@[simp] theorem writeResultAndFlag_pc (x : Reg) (b : Byte) (f : Bool) : (s.writeResultAndFlag x b f).pc = s.pc := rfl
@[simp] theorem writeResultAndFlag_ireg (x : Reg) (b : Byte) (f : Bool) : (s.writeResultAndFlag x b f).ireg = s.ireg := rfl
@[simp] theorem writeResultAndFlag_stack (x : Reg) (b : Byte) (f : Bool) : (s.writeResultAndFlag x b f).stack = s.stack := rfl
@[simp] theorem writeResultAndFlag_sp (x : Reg) (b : Byte) (f : Bool) : (s.writeResultAndFlag x b f).sp = s.sp := rfl
@[simp] theorem writeResultAndFlag_dt (x : Reg) (b : Byte) (f : Bool) : (s.writeResultAndFlag x b f).dt = s.dt := rfl
@[simp] theorem writeResultAndFlag_st (x : Reg) (b : Byte) (f : Bool) : (s.writeResultAndFlag x b f).st = s.st := rfl
@[simp] theorem writeResultAndFlag_key (x : Reg) (b : Byte) (f : Bool) : (s.writeResultAndFlag x b f).key = s.key := rfl
@[simp] theorem writeResultAndFlag_quirkShift (x : Reg) (b : Byte) (f : Bool) : (s.writeResultAndFlag x b f).quirkShift = s.quirkShift := rfl
@[simp] theorem writeResultAndFlag_clipping (x : Reg) (b : Byte) (f : Bool) : (s.writeResultAndFlag x b f).clipping = s.clipping := rfl
@[simp] theorem writeResultAndFlag_mem (x : Reg) (b : Byte) (f : Bool) : (s.writeResultAndFlag x b f).mem = s.mem := rfl
@[simp] theorem writeResultAndFlag_fb (x : Reg) (b : Byte) (f : Bool) : (s.writeResultAndFlag x b f).fb = s.fb := rfl
@[simp] theorem writeResultAndFlag_fault (x : Reg) (b : Byte) (f : Bool) : (s.writeResultAndFlag x b f).fault = s.fault := rfl
@[simp] theorem writeResultAndFlag_diag (x : Reg) (b : Byte) (f : Bool) : (s.writeResultAndFlag x b f).diag = s.diag := rfl
@[simp] theorem writeResultAndFlag_schedule (x : Reg) (b : Byte) (f : Bool) : (s.writeResultAndFlag x b f).schedule = s.schedule := rfl
@[simp] theorem writeResultAndFlag_free (x : Reg) (b : Byte) (f : Bool) : (s.writeResultAndFlag x b f).free = s.free := rfl

/-! ### jump -/

@[simp] theorem jump_v (a : Word) : (s.jump a).v = s.v := rfl
@[simp] theorem jump_pc (a : Word) : (s.jump a).pc = a := rfl
@[simp] theorem jump_ireg (a : Word) : (s.jump a).ireg = s.ireg := rfl
@[simp] theorem jump_stack (a : Word) : (s.jump a).stack = s.stack := rfl
@[simp] theorem jump_sp (a : Word) : (s.jump a).sp = s.sp := rfl
@[simp] theorem jump_dt (a : Word) : (s.jump a).dt = s.dt := rfl
@[simp] theorem jump_st (a : Word) : (s.jump a).st = s.st := rfl
@[simp] theorem jump_key (a : Word) : (s.jump a).key = s.key := rfl
@[simp] theorem jump_quirkShift (a : Word) : (s.jump a).quirkShift = s.quirkShift := rfl
@[simp] theorem jump_clipping (a : Word) : (s.jump a).clipping = s.clipping := rfl
@[simp] theorem jump_mem (a : Word) : (s.jump a).mem = s.mem := rfl
@[simp] theorem jump_fb (a : Word) : (s.jump a).fb = s.fb := rfl
@[simp] theorem jump_fault (a : Word) : (s.jump a).fault = s.fault := rfl
@[simp] theorem jump_diag (a : Word) : (s.jump a).diag = s.diag := rfl
@[simp] theorem jump_schedule (a : Word) : (s.jump a).schedule = s.schedule := rfl
@[simp] theorem jump_free (a : Word) : (s.jump a).free = s.free := rfl

/-! ### advance -/

@[simp] theorem advance_v : (s.advance).v = s.v := rfl
@[simp] theorem advance_pc : (s.advance).pc = s.pc + 2 := rfl
@[simp] theorem advance_ireg : (s.advance).ireg = s.ireg := rfl
@[simp] theorem advance_stack : (s.advance).stack = s.stack := rfl
@[simp] theorem advance_sp : (s.advance).sp = s.sp := rfl
@[simp] theorem advance_dt : (s.advance).dt = s.dt := rfl
@[simp] theorem advance_st : (s.advance).st = s.st := rfl
@[simp] theorem advance_key : (s.advance).key = s.key := rfl
@[simp] theorem advance_quirkShift : (s.advance).quirkShift = s.quirkShift := rfl
@[simp] theorem advance_clipping : (s.advance).clipping = s.clipping := rfl
@[simp] theorem advance_mem : (s.advance).mem = s.mem := rfl
@[simp] theorem advance_fb : (s.advance).fb = s.fb := rfl
@[simp] theorem advance_fault : (s.advance).fault = s.fault := rfl
@[simp] theorem advance_diag : (s.advance).diag = s.diag := rfl
@[simp] theorem advance_schedule : (s.advance).schedule = s.schedule := rfl
@[simp] theorem advance_free : (s.advance).free = s.free := rfl

/-! ### rewind -/

@[simp] theorem rewind_v : (s.rewind).v = s.v := rfl
@[simp] theorem rewind_pc : (s.rewind).pc = s.pc - 2 := rfl
@[simp] theorem rewind_ireg : (s.rewind).ireg = s.ireg := rfl
@[simp] theorem rewind_stack : (s.rewind).stack = s.stack := rfl
@[simp] theorem rewind_sp : (s.rewind).sp = s.sp := rfl
@[simp] theorem rewind_dt : (s.rewind).dt = s.dt := rfl
@[simp] theorem rewind_st : (s.rewind).st = s.st := rfl
@[simp] theorem rewind_key : (s.rewind).key = s.key := rfl
@[simp] theorem rewind_quirkShift : (s.rewind).quirkShift = s.quirkShift := rfl
@[simp] theorem rewind_clipping : (s.rewind).clipping = s.clipping := rfl
@[simp] theorem rewind_mem : (s.rewind).mem = s.mem := rfl
@[simp] theorem rewind_fb : (s.rewind).fb = s.fb := rfl
@[simp] theorem rewind_fault : (s.rewind).fault = s.fault := rfl
@[simp] theorem rewind_diag : (s.rewind).diag = s.diag := rfl
@[simp] theorem rewind_schedule : (s.rewind).schedule = s.schedule := rfl
@[simp] theorem rewind_free : (s.rewind).free = s.free := rfl

/-! ### writeI -/

@[simp] theorem writeI_v (a : Word) : (s.writeI a).v = s.v := rfl
@[simp] theorem writeI_pc (a : Word) : (s.writeI a).pc = s.pc := rfl
@[simp] theorem writeI_ireg (a : Word) : (s.writeI a).ireg = a := rfl
@[simp] theorem writeI_stack (a : Word) : (s.writeI a).stack = s.stack := rfl
@[simp] theorem writeI_sp (a : Word) : (s.writeI a).sp = s.sp := rfl
@[simp] theorem writeI_dt (a : Word) : (s.writeI a).dt = s.dt := rfl
@[simp] theorem writeI_st (a : Word) : (s.writeI a).st = s.st := rfl
@[simp] theorem writeI_key (a : Word) : (s.writeI a).key = s.key := rfl
@[simp] theorem writeI_quirkShift (a : Word) : (s.writeI a).quirkShift = s.quirkShift := rfl
@[simp] theorem writeI_clipping (a : Word) : (s.writeI a).clipping = s.clipping := rfl
@[simp] theorem writeI_mem (a : Word) : (s.writeI a).mem = s.mem := rfl
@[simp] theorem writeI_fb (a : Word) : (s.writeI a).fb = s.fb := rfl
@[simp] theorem writeI_fault (a : Word) : (s.writeI a).fault = s.fault := rfl
@[simp] theorem writeI_diag (a : Word) : (s.writeI a).diag = s.diag := rfl
@[simp] theorem writeI_schedule (a : Word) : (s.writeI a).schedule = s.schedule := rfl
@[simp] theorem writeI_free (a : Word) : (s.writeI a).free = s.free := rfl

/-! ### writeDt -/

@[simp] theorem writeDt_v (b : Byte) : (s.writeDt b).v = s.v := rfl
@[simp] theorem writeDt_pc (b : Byte) : (s.writeDt b).pc = s.pc := rfl
@[simp] theorem writeDt_ireg (b : Byte) : (s.writeDt b).ireg = s.ireg := rfl
@[simp] theorem writeDt_stack (b : Byte) : (s.writeDt b).stack = s.stack := rfl
@[simp] theorem writeDt_sp (b : Byte) : (s.writeDt b).sp = s.sp := rfl
@[simp] theorem writeDt_dt (b : Byte) : (s.writeDt b).dt = b := rfl
@[simp] theorem writeDt_st (b : Byte) : (s.writeDt b).st = s.st := rfl
@[simp] theorem writeDt_key (b : Byte) : (s.writeDt b).key = s.key := rfl
@[simp] theorem writeDt_quirkShift (b : Byte) : (s.writeDt b).quirkShift = s.quirkShift := rfl
@[simp] theorem writeDt_clipping (b : Byte) : (s.writeDt b).clipping = s.clipping := rfl
@[simp] theorem writeDt_mem (b : Byte) : (s.writeDt b).mem = s.mem := rfl
@[simp] theorem writeDt_fb (b : Byte) : (s.writeDt b).fb = s.fb := rfl
@[simp] theorem writeDt_fault (b : Byte) : (s.writeDt b).fault = s.fault := rfl
@[simp] theorem writeDt_diag (b : Byte) : (s.writeDt b).diag = s.diag := rfl
@[simp] theorem writeDt_schedule (b : Byte) : (s.writeDt b).schedule = s.schedule := rfl
@[simp] theorem writeDt_free (b : Byte) : (s.writeDt b).free = s.free := rfl

/-! ### writeSt -/

@[simp] theorem writeSt_v (b : Byte) : (s.writeSt b).v = s.v := rfl
@[simp] theorem writeSt_pc (b : Byte) : (s.writeSt b).pc = s.pc := rfl
@[simp] theorem writeSt_ireg (b : Byte) : (s.writeSt b).ireg = s.ireg := rfl
@[simp] theorem writeSt_stack (b : Byte) : (s.writeSt b).stack = s.stack := rfl
@[simp] theorem writeSt_sp (b : Byte) : (s.writeSt b).sp = s.sp := rfl
@[simp] theorem writeSt_dt (b : Byte) : (s.writeSt b).dt = s.dt := rfl
@[simp] theorem writeSt_st (b : Byte) : (s.writeSt b).st = b := rfl
@[simp] theorem writeSt_key (b : Byte) : (s.writeSt b).key = s.key := rfl
@[simp] theorem writeSt_quirkShift (b : Byte) : (s.writeSt b).quirkShift = s.quirkShift := rfl
@[simp] theorem writeSt_clipping (b : Byte) : (s.writeSt b).clipping = s.clipping := rfl
@[simp] theorem writeSt_mem (b : Byte) : (s.writeSt b).mem = s.mem := rfl
@[simp] theorem writeSt_fb (b : Byte) : (s.writeSt b).fb = s.fb := rfl
@[simp] theorem writeSt_fault (b : Byte) : (s.writeSt b).fault = s.fault := rfl
@[simp] theorem writeSt_diag (b : Byte) : (s.writeSt b).diag = s.diag := rfl
@[simp] theorem writeSt_schedule (b : Byte) : (s.writeSt b).schedule = s.schedule := rfl
@[simp] theorem writeSt_free (b : Byte) : (s.writeSt b).free = s.free := rfl

/-! ### push -/

@[simp] theorem push_v (a : Word) : (s.push a).v = s.v := rfl
@[simp] theorem push_pc (a : Word) : (s.push a).pc = s.pc := rfl
@[simp] theorem push_ireg (a : Word) : (s.push a).ireg = s.ireg := rfl
@[simp] theorem push_stack (a : Word) : (s.push a).stack = s.stack.set s.sp.toNat a s.sp.isLt := rfl
@[simp] theorem push_sp (a : Word) : (s.push a).sp = s.sp + 1 := rfl
@[simp] theorem push_dt (a : Word) : (s.push a).dt = s.dt := rfl
@[simp] theorem push_st (a : Word) : (s.push a).st = s.st := rfl
@[simp] theorem push_key (a : Word) : (s.push a).key = s.key := rfl
@[simp] theorem push_quirkShift (a : Word) : (s.push a).quirkShift = s.quirkShift := rfl
@[simp] theorem push_clipping (a : Word) : (s.push a).clipping = s.clipping := rfl
@[simp] theorem push_mem (a : Word) : (s.push a).mem = s.mem := rfl
@[simp] theorem push_fb (a : Word) : (s.push a).fb = s.fb := rfl
@[simp] theorem push_fault (a : Word) : (s.push a).fault = s.fault := rfl
@[simp] theorem push_diag (a : Word) : (s.push a).diag = s.diag := rfl
@[simp] theorem push_schedule (a : Word) : (s.push a).schedule = s.schedule := rfl
@[simp] theorem push_free (a : Word) : (s.push a).free = s.free := rfl

/-! ### popToPc -/

@[simp] theorem popToPc_v : (s.popToPc).v = s.v := rfl
@[simp] theorem popToPc_pc : (s.popToPc).pc = s.readStack (s.sp - 1) := rfl
@[simp] theorem popToPc_ireg : (s.popToPc).ireg = s.ireg := rfl
@[simp] theorem popToPc_stack : (s.popToPc).stack = s.stack := rfl
@[simp] theorem popToPc_sp : (s.popToPc).sp = s.sp - 1 := rfl
@[simp] theorem popToPc_dt : (s.popToPc).dt = s.dt := rfl
@[simp] theorem popToPc_st : (s.popToPc).st = s.st := rfl
@[simp] theorem popToPc_key : (s.popToPc).key = s.key := rfl
@[simp] theorem popToPc_quirkShift : (s.popToPc).quirkShift = s.quirkShift := rfl
@[simp] theorem popToPc_clipping : (s.popToPc).clipping = s.clipping := rfl
@[simp] theorem popToPc_mem : (s.popToPc).mem = s.mem := rfl
@[simp] theorem popToPc_fb : (s.popToPc).fb = s.fb := rfl
@[simp] theorem popToPc_fault : (s.popToPc).fault = s.fault := rfl
@[simp] theorem popToPc_diag : (s.popToPc).diag = s.diag := rfl
@[simp] theorem popToPc_schedule : (s.popToPc).schedule = s.schedule := rfl
@[simp] theorem popToPc_free : (s.popToPc).free = s.free := rfl

/-! ### storeBytes -/

@[simp] theorem storeBytes_v (a : Nat) (bs : List Byte) : (s.storeBytes a bs).v = s.v := rfl
@[simp] theorem storeBytes_pc (a : Nat) (bs : List Byte) : (s.storeBytes a bs).pc = s.pc := rfl
@[simp] theorem storeBytes_ireg (a : Nat) (bs : List Byte) : (s.storeBytes a bs).ireg = s.ireg := rfl
@[simp] theorem storeBytes_stack (a : Nat) (bs : List Byte) : (s.storeBytes a bs).stack = s.stack := rfl
@[simp] theorem storeBytes_sp (a : Nat) (bs : List Byte) : (s.storeBytes a bs).sp = s.sp := rfl
@[simp] theorem storeBytes_dt (a : Nat) (bs : List Byte) : (s.storeBytes a bs).dt = s.dt := rfl
@[simp] theorem storeBytes_st (a : Nat) (bs : List Byte) : (s.storeBytes a bs).st = s.st := rfl
@[simp] theorem storeBytes_key (a : Nat) (bs : List Byte) : (s.storeBytes a bs).key = s.key := rfl
@[simp] theorem storeBytes_quirkShift (a : Nat) (bs : List Byte) : (s.storeBytes a bs).quirkShift = s.quirkShift := rfl
@[simp] theorem storeBytes_clipping (a : Nat) (bs : List Byte) : (s.storeBytes a bs).clipping = s.clipping := rfl
@[simp] theorem storeBytes_mem (a : Nat) (bs : List Byte) : (s.storeBytes a bs).mem = s.mem.writeBytes a bs := rfl
@[simp] theorem storeBytes_fb (a : Nat) (bs : List Byte) : (s.storeBytes a bs).fb = s.fb := rfl
@[simp] theorem storeBytes_fault (a : Nat) (bs : List Byte) : (s.storeBytes a bs).fault = s.fault := rfl
@[simp] theorem storeBytes_diag (a : Nat) (bs : List Byte) : (s.storeBytes a bs).diag = s.diag := rfl
@[simp] theorem storeBytes_schedule (a : Nat) (bs : List Byte) : (s.storeBytes a bs).schedule = s.schedule := rfl
@[simp] theorem storeBytes_free (a : Nat) (bs : List Byte) : (s.storeBytes a bs).free = s.free := rfl

/-! ### report -/

@[simp] theorem report_v (k : ReportKind) (w : Word) : (s.report k w).v = s.v := rfl
@[simp] theorem report_pc (k : ReportKind) (w : Word) : (s.report k w).pc = s.pc := rfl
@[simp] theorem report_ireg (k : ReportKind) (w : Word) : (s.report k w).ireg = s.ireg := rfl
@[simp] theorem report_stack (k : ReportKind) (w : Word) : (s.report k w).stack = s.stack := rfl
@[simp] theorem report_sp (k : ReportKind) (w : Word) : (s.report k w).sp = s.sp := rfl
@[simp] theorem report_dt (k : ReportKind) (w : Word) : (s.report k w).dt = s.dt := rfl
@[simp] theorem report_st (k : ReportKind) (w : Word) : (s.report k w).st = s.st := rfl
@[simp] theorem report_key (k : ReportKind) (w : Word) : (s.report k w).key = s.key := rfl
@[simp] theorem report_quirkShift (k : ReportKind) (w : Word) : (s.report k w).quirkShift = s.quirkShift := rfl
@[simp] theorem report_clipping (k : ReportKind) (w : Word) : (s.report k w).clipping = s.clipping := rfl
@[simp] theorem report_mem (k : ReportKind) (w : Word) : (s.report k w).mem = s.mem := rfl
@[simp] theorem report_fb (k : ReportKind) (w : Word) : (s.report k w).fb = s.fb := rfl
@[simp] theorem report_fault (k : ReportKind) (w : Word) : (s.report k w).fault = s.fault := rfl
@[simp] theorem report_diag (k : ReportKind) (w : Word) : (s.report k w).diag = s.diag ++ [⟨k, w, s.instrAddr⟩] := rfl
@[simp] theorem report_schedule (k : ReportKind) (w : Word) : (s.report k w).schedule = s.schedule := rfl
@[simp] theorem report_free (k : ReportKind) (w : Word) : (s.report k w).free = s.free := rfl

/-! ### raiseFetchOutOfBounds -/

@[simp] theorem raiseFetchOutOfBounds_v : (s.raiseFetchOutOfBounds).v = s.v := rfl
@[simp] theorem raiseFetchOutOfBounds_pc : (s.raiseFetchOutOfBounds).pc = s.pc := rfl
@[simp] theorem raiseFetchOutOfBounds_ireg : (s.raiseFetchOutOfBounds).ireg = s.ireg := rfl
@[simp] theorem raiseFetchOutOfBounds_stack : (s.raiseFetchOutOfBounds).stack = s.stack := rfl
@[simp] theorem raiseFetchOutOfBounds_sp : (s.raiseFetchOutOfBounds).sp = s.sp := rfl
@[simp] theorem raiseFetchOutOfBounds_dt : (s.raiseFetchOutOfBounds).dt = s.dt := rfl
@[simp] theorem raiseFetchOutOfBounds_st : (s.raiseFetchOutOfBounds).st = s.st := rfl
@[simp] theorem raiseFetchOutOfBounds_key : (s.raiseFetchOutOfBounds).key = s.key := rfl
@[simp] theorem raiseFetchOutOfBounds_quirkShift : (s.raiseFetchOutOfBounds).quirkShift = s.quirkShift := rfl
@[simp] theorem raiseFetchOutOfBounds_clipping : (s.raiseFetchOutOfBounds).clipping = s.clipping := rfl
@[simp] theorem raiseFetchOutOfBounds_mem : (s.raiseFetchOutOfBounds).mem = s.mem := rfl
@[simp] theorem raiseFetchOutOfBounds_fb : (s.raiseFetchOutOfBounds).fb = s.fb := rfl
@[simp] theorem raiseFetchOutOfBounds_fault : (s.raiseFetchOutOfBounds).fault = some (.fetchOutOfBounds s.pc) := rfl
@[simp] theorem raiseFetchOutOfBounds_diag : (s.raiseFetchOutOfBounds).diag = s.diag := rfl
@[simp] theorem raiseFetchOutOfBounds_schedule : (s.raiseFetchOutOfBounds).schedule = s.schedule := rfl
@[simp] theorem raiseFetchOutOfBounds_free : (s.raiseFetchOutOfBounds).free = s.free := rfl

/-! ### writeCell -/

@[simp] theorem writeCell_v (j : Nat) (b : Byte) : (s.writeCell j b).v = s.v := rfl
@[simp] theorem writeCell_pc (j : Nat) (b : Byte) : (s.writeCell j b).pc = s.pc := rfl
@[simp] theorem writeCell_ireg (j : Nat) (b : Byte) : (s.writeCell j b).ireg = s.ireg := rfl
@[simp] theorem writeCell_stack (j : Nat) (b : Byte) : (s.writeCell j b).stack = s.stack := rfl
@[simp] theorem writeCell_sp (j : Nat) (b : Byte) : (s.writeCell j b).sp = s.sp := rfl
@[simp] theorem writeCell_dt (j : Nat) (b : Byte) : (s.writeCell j b).dt = s.dt := rfl
@[simp] theorem writeCell_st (j : Nat) (b : Byte) : (s.writeCell j b).st = s.st := rfl
@[simp] theorem writeCell_key (j : Nat) (b : Byte) : (s.writeCell j b).key = s.key := rfl
@[simp] theorem writeCell_quirkShift (j : Nat) (b : Byte) : (s.writeCell j b).quirkShift = s.quirkShift := rfl
@[simp] theorem writeCell_clipping (j : Nat) (b : Byte) : (s.writeCell j b).clipping = s.clipping := rfl
@[simp] theorem writeCell_mem (j : Nat) (b : Byte) : (s.writeCell j b).mem = s.mem := rfl
@[simp] theorem writeCell_fb (j : Nat) (b : Byte) : (s.writeCell j b).fb = s.fb.write j b := rfl
@[simp] theorem writeCell_fault (j : Nat) (b : Byte) : (s.writeCell j b).fault = s.fault := rfl
@[simp] theorem writeCell_diag (j : Nat) (b : Byte) : (s.writeCell j b).diag = s.diag := rfl
@[simp] theorem writeCell_schedule (j : Nat) (b : Byte) : (s.writeCell j b).schedule = s.schedule := rfl
@[simp] theorem writeCell_free (j : Nat) (b : Byte) : (s.writeCell j b).free = s.free := rfl

/-! ### tick -/

@[simp] theorem tick_v : (s.tick).v = s.v := rfl
@[simp] theorem tick_pc : (s.tick).pc = s.pc := rfl
@[simp] theorem tick_ireg : (s.tick).ireg = s.ireg := rfl
@[simp] theorem tick_stack : (s.tick).stack = s.stack := rfl
@[simp] theorem tick_sp : (s.tick).sp = s.sp := rfl
@[simp] theorem tick_dt : (s.tick).dt = countDown s.dt := rfl
@[simp] theorem tick_st : (s.tick).st = countDown s.st := rfl
@[simp] theorem tick_key : (s.tick).key = s.key := rfl
@[simp] theorem tick_quirkShift : (s.tick).quirkShift = s.quirkShift := rfl
@[simp] theorem tick_clipping : (s.tick).clipping = s.clipping := rfl
@[simp] theorem tick_mem : (s.tick).mem = s.mem := rfl
@[simp] theorem tick_fb : (s.tick).fb = s.fb := rfl
@[simp] theorem tick_fault : (s.tick).fault = s.fault := rfl
@[simp] theorem tick_diag : (s.tick).diag = s.diag := rfl
@[simp] theorem tick_schedule : (s.tick).schedule = s.schedule := rfl
@[simp] theorem tick_free : (s.tick).free = s.free := rfl

/-! ### keyDown -/

@[simp] theorem keyDown_v (k : Nibble) : (s.keyDown k).v = s.v := rfl
@[simp] theorem keyDown_pc (k : Nibble) : (s.keyDown k).pc = s.pc := rfl
@[simp] theorem keyDown_ireg (k : Nibble) : (s.keyDown k).ireg = s.ireg := rfl
@[simp] theorem keyDown_stack (k : Nibble) : (s.keyDown k).stack = s.stack := rfl
@[simp] theorem keyDown_sp (k : Nibble) : (s.keyDown k).sp = s.sp := rfl
@[simp] theorem keyDown_dt (k : Nibble) : (s.keyDown k).dt = s.dt := rfl
@[simp] theorem keyDown_st (k : Nibble) : (s.keyDown k).st = s.st := rfl
@[simp] theorem keyDown_key (k : Nibble) : (s.keyDown k).key = some k := rfl
@[simp] theorem keyDown_quirkShift (k : Nibble) : (s.keyDown k).quirkShift = s.quirkShift := rfl
@[simp] theorem keyDown_clipping (k : Nibble) : (s.keyDown k).clipping = s.clipping := rfl
@[simp] theorem keyDown_mem (k : Nibble) : (s.keyDown k).mem = s.mem := rfl
@[simp] theorem keyDown_fb (k : Nibble) : (s.keyDown k).fb = s.fb := rfl
@[simp] theorem keyDown_fault (k : Nibble) : (s.keyDown k).fault = s.fault := rfl
@[simp] theorem keyDown_diag (k : Nibble) : (s.keyDown k).diag = s.diag := rfl
@[simp] theorem keyDown_schedule (k : Nibble) : (s.keyDown k).schedule = s.schedule := rfl
@[simp] theorem keyDown_free (k : Nibble) : (s.keyDown k).free = s.free := rfl

/-! ### keyUp -/

@[simp] theorem keyUp_v : (s.keyUp).v = s.v := rfl
@[simp] theorem keyUp_pc : (s.keyUp).pc = s.pc := rfl
@[simp] theorem keyUp_ireg : (s.keyUp).ireg = s.ireg := rfl
@[simp] theorem keyUp_stack : (s.keyUp).stack = s.stack := rfl
@[simp] theorem keyUp_sp : (s.keyUp).sp = s.sp := rfl
@[simp] theorem keyUp_dt : (s.keyUp).dt = s.dt := rfl
@[simp] theorem keyUp_st : (s.keyUp).st = s.st := rfl
@[simp] theorem keyUp_key : (s.keyUp).key = none := rfl
@[simp] theorem keyUp_quirkShift : (s.keyUp).quirkShift = s.quirkShift := rfl
@[simp] theorem keyUp_clipping : (s.keyUp).clipping = s.clipping := rfl
@[simp] theorem keyUp_mem : (s.keyUp).mem = s.mem := rfl
@[simp] theorem keyUp_fb : (s.keyUp).fb = s.fb := rfl
@[simp] theorem keyUp_fault : (s.keyUp).fault = s.fault := rfl
@[simp] theorem keyUp_diag : (s.keyUp).diag = s.diag := rfl
@[simp] theorem keyUp_schedule : (s.keyUp).schedule = s.schedule := rfl
@[simp] theorem keyUp_free : (s.keyUp).free = s.free := rfl

/-! ### skipIf -/

@[simp] theorem skipIf_true : s.skipIf true = s.advance := rfl
@[simp] theorem skipIf_false : s.skipIf false = s := rfl
@[simp] theorem skipIf_pc (c : Bool) : (s.skipIf c).pc = if c then s.pc + 2 else s.pc := by cases c <;> rfl
@[simp] theorem skipIf_v (c : Bool) : (s.skipIf c).v = s.v := by cases c <;> rfl
@[simp] theorem skipIf_ireg (c : Bool) : (s.skipIf c).ireg = s.ireg := by cases c <;> rfl
@[simp] theorem skipIf_stack (c : Bool) : (s.skipIf c).stack = s.stack := by cases c <;> rfl
@[simp] theorem skipIf_sp (c : Bool) : (s.skipIf c).sp = s.sp := by cases c <;> rfl
@[simp] theorem skipIf_dt (c : Bool) : (s.skipIf c).dt = s.dt := by cases c <;> rfl
@[simp] theorem skipIf_st (c : Bool) : (s.skipIf c).st = s.st := by cases c <;> rfl
@[simp] theorem skipIf_key (c : Bool) : (s.skipIf c).key = s.key := by cases c <;> rfl
@[simp] theorem skipIf_quirkShift (c : Bool) : (s.skipIf c).quirkShift = s.quirkShift := by cases c <;> rfl
@[simp] theorem skipIf_clipping (c : Bool) : (s.skipIf c).clipping = s.clipping := by cases c <;> rfl
@[simp] theorem skipIf_mem (c : Bool) : (s.skipIf c).mem = s.mem := by cases c <;> rfl
@[simp] theorem skipIf_fb (c : Bool) : (s.skipIf c).fb = s.fb := by cases c <;> rfl
@[simp] theorem skipIf_fault (c : Bool) : (s.skipIf c).fault = s.fault := by cases c <;> rfl
@[simp] theorem skipIf_diag (c : Bool) : (s.skipIf c).diag = s.diag := by cases c <;> rfl
@[simp] theorem skipIf_schedule (c : Bool) : (s.skipIf c).schedule = s.schedule := by cases c <;> rfl
@[simp] theorem skipIf_free (c : Bool) : (s.skipIf c).free = s.free := by cases c <;> rfl

/-! ### construct -/

variable (qs cl : Bool) (o : OpenReset) (fb : Memory)

@[simp] theorem construct_v : (State.construct qs cl o fb).v = o.v := rfl
@[simp] theorem construct_pc : (State.construct qs cl o fb).pc = 0x200 := rfl
@[simp] theorem construct_ireg : (State.construct qs cl o fb).ireg = o.ireg := rfl
@[simp] theorem construct_stack : (State.construct qs cl o fb).stack = o.stack := rfl
@[simp] theorem construct_sp : (State.construct qs cl o fb).sp = 0 := rfl
@[simp] theorem construct_dt : (State.construct qs cl o fb).dt = 0 := rfl
@[simp] theorem construct_st : (State.construct qs cl o fb).st = 0 := rfl
@[simp] theorem construct_key : (State.construct qs cl o fb).key = none := rfl
@[simp] theorem construct_quirkShift : (State.construct qs cl o fb).quirkShift = qs := rfl
@[simp] theorem construct_clipping : (State.construct qs cl o fb).clipping = cl := rfl
@[simp] theorem construct_mem : (State.construct qs cl o fb).mem = [] := rfl
@[simp] theorem construct_fb : (State.construct qs cl o fb).fb = fb := rfl
@[simp] theorem construct_fault : (State.construct qs cl o fb).fault = none := rfl
@[simp] theorem construct_diag : (State.construct qs cl o fb).diag = [] := rfl
@[simp] theorem construct_schedule : (State.construct qs cl o fb).schedule = [] := rfl
@[simp] theorem construct_free : (State.construct qs cl o fb).free = 0 := rfl

end Sys2Proof.Machine
end

