-- ==== Sys2Proof/Laws/Registers.lean ====
section
/-! SUPPORT. Reading a register or a stack entry after a write, and what a block of register writes leaves. -/

namespace Sys2Proof.Machine

variable (s : State)

theorem readV_writeV (x y : Reg) (b : Byte) : (s.writeV x b).readV y = if y = x then b else s.readV y := by
  simp only [State.readV, writeV_v, Vector.getElem_set]
  by_cases h : y = x
  · subst h; simp
  · have : x.toNat ≠ y.toNat := fun e => h (BitVec.eq_of_toNat_eq e.symm)
    simp [h, this]

@[simp] theorem readV_writeV_self (x : Reg) (b : Byte) : (s.writeV x b).readV x = b := by
  simp [readV_writeV]

theorem readV_writeV_ne {x y : Reg} (h : y ≠ x) (b : Byte) : (s.writeV x b).readV y = s.readV y := by
  simp [readV_writeV, h]

theorem readV_writeFlag (y : Reg) (f : Bool) :
    (s.writeFlag f).readV y = if y = State.vfIndex then (if f then 1 else 0) else s.readV y :=
  readV_writeV s _ _ _

/-- A result and a flag: VF ends as the flag whatever the destination is (42_alu.md R110). -/
theorem readV_writeResultAndFlag (x y : Reg) (b : Byte) (f : Bool) :
    (s.writeResultAndFlag x b f).readV y =
      if y = State.vfIndex then (if f then 1 else 0) else if y = x then b else s.readV y := by
  simp only [State.writeResultAndFlag, readV_writeFlag, readV_writeV]

/-- Registers are read through `v` alone. -/
theorem readV_congr {s t : State} (h : t.v = s.v) (y : Reg) : t.readV y = s.readV y := by
  simp only [State.readV, h]

/-- Two states whose registers read alike hold the same register file. -/
theorem v_ext {s t : State} (h : ∀ y : Reg, t.readV y = s.readV y) : t.v = s.v := by
  apply Vector.ext; intro k hk
  have := h (BitVec.ofNat 4 k)
  simpa [State.readV, Nat.mod_eq_of_lt hk] using this

theorem readStack_push (a : Word) (j : Nibble) :
    (s.push a).readStack j = if j = s.sp then a else s.readStack j := by
  simp only [State.readStack, push_stack, Vector.getElem_set]
  by_cases h : j = s.sp
  · subst h; simp
  · have : s.sp.toNat ≠ j.toNat := fun e => h (BitVec.eq_of_toNat_eq e.symm)
    simp [h, this]

theorem readStack_congr {s t : State} (h : t.stack = s.stack) (j : Nibble) : t.readStack j = s.readStack j := by
  simp only [State.readStack, h]

theorem stack_ext {s t : State} (h : ∀ j : Nibble, t.readStack j = s.readStack j) : t.stack = s.stack := by
  apply Vector.ext; intro k hk
  have := h (BitVec.ofNat 4 k)
  simpa [State.readStack, Nat.mod_eq_of_lt hk] using this

@[simp] theorem length_firstRegs (n : Nat) : (s.firstRegs n).length = n := by simp [State.firstRegs]

theorem getD_firstRegs (n k : Nat) (hk : k < n) : (s.firstRegs n).getD k 0 = s.readV (BitVec.ofNat 4 k) := by
  simp [State.firstRegs, hk]

/-- A block of register writes changes nothing but the register file. -/
theorem writeRegsFrom_eq : ∀ (bs : List Byte) (k : Nat) (s : State),
    s.writeRegsFrom k bs = { s with v := (s.writeRegsFrom k bs).v }
  | [], _, _ => rfl
  | b :: bs, k, s => by
    rw [State.writeRegsFrom, writeRegsFrom_eq bs]
    rfl

/-- What a block of register writes leaves in each register. -/
theorem readV_writeRegsFrom : ∀ (bs : List Byte) (k : Nat) (s : State) (y : Reg), k + bs.length ≤ 16 →
    (s.writeRegsFrom k bs).readV y =
      if k ≤ y.toNat ∧ y.toNat < k + bs.length then bs.getD (y.toNat - k) 0 else s.readV y
  | [], k, s, y, _ => by rw [State.writeRegsFrom, if_neg (by simp)]
  | b :: bs, k, s, y, h => by
    simp only [List.length_cons] at h ⊢
    rw [State.writeRegsFrom, readV_writeRegsFrom bs _ _ _ (by omega), readV_writeV]
    by_cases h1 : k + 1 ≤ y.toNat ∧ y.toNat < k + 1 + bs.length
    · rw [if_pos h1, if_pos (by omega), show y.toNat - k = (y.toNat - (k + 1)) + 1 by omega, List.getD_cons_succ]
    · rw [if_neg h1]
      by_cases h2 : y = BitVec.ofNat 4 k
      · have : y.toNat = k := by rw [h2, BitVec.toNat_ofNat]; omega
        rw [if_pos h2, if_pos (by omega), this, Nat.sub_self, List.getD_cons_zero]
      · have : y.toNat ≠ k := fun e => h2 (BitVec.eq_of_toNat_eq (by rw [BitVec.toNat_ofNat, e]; omega))
        rw [if_neg h2, if_neg (by omega)]

end Sys2Proof.Machine
end

