-- ==== Sys2Proof/Laws/Blit.lean ====
section
/-! SUPPORT. The blit: everything one lit sprite bit can do (`drawPixel_cases`), what a blit leaves alone, and, on
cells that hold 0 or 1 and targets that are all different, what it leaves in each cell and in VF. -/

namespace Sys2Proof.Machine

/-- Everything one lit sprite bit can do to the state. -/
theorem drawPixel_cases (s : State) (j : Nat) :
    (s.fb.read j = 0 ∧ drawPixel s j = s.writeCell j 1) ∨
    (s.fb.read j = 1 ∧ drawPixel s j = (s.writeFlag true).writeCell j 0) ∨
    (s.fb.read j ≠ 0 ∧ s.fb.read j ≠ 1 ∧
      ∃ f : Bool, drawPixel s j =
        { (if f then s.writeFlag true else s).writeCell j (Config.freeCell s.free) with free := s.free + 1 }) := by
  unfold drawPixel
  by_cases h0 : s.fb.read j = 0
  · exact .inl ⟨h0, if_pos h0⟩
  · by_cases h1 : s.fb.read j = 1
    · exact .inr (.inl ⟨h1, by rw [if_neg h0, if_pos h1]⟩)
    · exact .inr (.inr ⟨h0, h1, Config.freeCollision s.free, by rw [if_neg h0, if_neg h1]; rfl⟩)

/-- The part of the state a blit does not write. -/
structure BlitFrame (s t : State) : Prop where
  regs : ∀ y, y ≠ State.vfIndex → t.readV y = s.readV y
  pc : t.pc = s.pc
  ireg : t.ireg = s.ireg
  stack : t.stack = s.stack
  sp : t.sp = s.sp
  dt : t.dt = s.dt
  st : t.st = s.st
  key : t.key = s.key
  quirkShift : t.quirkShift = s.quirkShift
  clipping : t.clipping = s.clipping
  mem : t.mem = s.mem
  fault : t.fault = s.fault
  diag : t.diag = s.diag
  schedule : t.schedule = s.schedule

theorem BlitFrame.refl (s : State) : BlitFrame s s := by constructor <;> intros <;> rfl

theorem BlitFrame.trans {s t u : State} (h : BlitFrame s t) (k : BlitFrame t u) : BlitFrame s u :=
  ⟨fun y hy => (k.regs y hy).trans (h.regs y hy), k.pc.trans h.pc, k.ireg.trans h.ireg, k.stack.trans h.stack,
    k.sp.trans h.sp, k.dt.trans h.dt, k.st.trans h.st, k.key.trans h.key, k.quirkShift.trans h.quirkShift,
    k.clipping.trans h.clipping, k.mem.trans h.mem, k.fault.trans h.fault, k.diag.trans h.diag,
    k.schedule.trans h.schedule⟩

theorem drawPixel_frame (s : State) (j : Nat) : BlitFrame s (drawPixel s j) := by
  have hf : BlitFrame s (s.writeFlag true) := by
    refine ⟨fun y hy => ?_, rfl, rfl, rfl, rfl, rfl, rfl, rfl, rfl, rfl, rfl, rfl, rfl, rfl⟩
    rw [readV_writeFlag, if_neg hy]
  have hc : ∀ (t : State) (b : Byte) (n : Nat), BlitFrame t { t.writeCell j b with free := n } := fun t b n => by
    constructor <;> intros <;> rfl
  obtain ⟨_, h⟩ | ⟨_, h⟩ | ⟨_, _, f, h⟩ := drawPixel_cases s j <;> rw [h]
  · exact hc s 1 s.free
  · exact hf.trans (hc _ 0 _)
  · cases f
    · exact hc s _ _
    · exact hf.trans (hc _ _ _)

/-- What a blit leaves alone, whatever the cells hold. -/
theorem blit_frame : ∀ (js : List Nat) (s : State), BlitFrame s (blit s js)
  | [], s => .refl s
  | j :: js, s => (drawPixel_frame s j).trans (blit_frame js (drawPixel s j))

/-- A lit sprite bit leaves every other cell alone. -/
theorem drawPixel_other_cell {s : State} {j k : Nat} (h : k ≠ j) : (drawPixel s j).fb.read k = s.fb.read k := by
  obtain ⟨_, e⟩ | ⟨_, e⟩ | ⟨_, _, f, e⟩ := drawPixel_cases s j <;> rw [e]
  · exact Memory.read_write_ne h
  · exact Memory.read_write_ne h
  · cases f <;> exact Memory.read_write_ne h

/-- A blit leaves every cell that is no target alone. -/
theorem blit_other_cell {k : Nat} : ∀ {js : List Nat} {s : State}, k ∉ js → (blit s js).fb.read k = s.fb.read k
  | [], _, _ => rfl
  | j :: js, s, h => by
    rw [List.mem_cons, not_or] at h
    exact (blit_other_cell (s := drawPixel s j) h.2).trans (drawPixel_other_cell h.1)

/-- A lit sprite bit keeps the frame buffer in canonical form. -/
theorem drawPixel_wf {s : State} {j : Nat} (hj : j < Config.fbSize) (h : s.fb.wf Config.fbSize = true) :
    (drawPixel s j).fb.wf Config.fbSize = true := by
  obtain ⟨_, e⟩ | ⟨_, e⟩ | ⟨_, _, f, e⟩ := drawPixel_cases s j <;> rw [e]
  · exact Memory.wf_write hj h
  · exact Memory.wf_write hj h
  · cases f <;> exact Memory.wf_write hj h

theorem blit_wf : ∀ {js : List Nat} {s : State}, (∀ j ∈ js, j < Config.fbSize) → s.fb.wf Config.fbSize = true →
    (blit s js).fb.wf Config.fbSize = true
  | [], _, _, h => h
  | _ :: js, _, hj, h =>
    blit_wf (js := js) (fun k hk => hj k (List.mem_cons_of_mem _ hk)) (drawPixel_wf (hj _ List.mem_cons_self) h)

/-- A lit sprite bit on a cell that holds 0 or 1 toggles it. -/
theorem drawPixel_bit_cell {s : State} {j : Nat} (hw : s.fb.wf Config.fbSize = true)
    (hb : s.fb.read j = 0 ∨ s.fb.read j = 1) : (drawPixel s j).fb.read j = s.fb.read j ^^^ 1 := by
  obtain ⟨h, e⟩ | ⟨h, e⟩ | ⟨h, h', _⟩ := drawPixel_cases s j
  · rw [e, writeCell_fb, Memory.read_write hw, if_pos rfl, h]; rfl
  · rw [e, writeCell_fb, writeFlag_fb, Memory.read_write hw, if_pos rfl, h]; rfl
  · exact hb.elim (absurd · h) (absurd · h')

/-- … sets VF exactly when the cell was lit, and uses no free value. -/
theorem drawPixel_bit_flag {s : State} {j : Nat} (hb : s.fb.read j = 0 ∨ s.fb.read j = 1) :
    (drawPixel s j).readV State.vfIndex = (if s.fb.read j = 1 then 1 else s.readV State.vfIndex) ∧
    (drawPixel s j).free = s.free := by
  obtain ⟨h, e⟩ | ⟨h, e⟩ | ⟨h, h', _⟩ := drawPixel_cases s j
  · rw [e, h]; exact ⟨rfl, rfl⟩
  · rw [e, h, if_pos rfl]
    exact ⟨readV_writeFlag s State.vfIndex true, rfl⟩
  · exact hb.elim (absurd · h) (absurd · h')

/-- What a blit leaves, on cells that hold 0 or 1 and targets that are all different: each target toggled, VF set
when a target was lit, no free value used. -/
theorem blit_on_bits : ∀ {js : List Nat} {s : State}, js.Nodup → (∀ j ∈ js, j < Config.fbSize) →
    s.fb.wf Config.fbSize = true → (∀ j ∈ js, s.fb.read j = 0 ∨ s.fb.read j = 1) →
    (∀ j ∈ js, (blit s js).fb.read j = s.fb.read j ^^^ 1) ∧
    (blit s js).readV State.vfIndex = (if ∃ j ∈ js, s.fb.read j = 1 then 1 else s.readV State.vfIndex) ∧
    (blit s js).free = s.free
  | [], s, _, _, _, _ => by simp [blit]
  | j :: js, s, hn, hj, hw, hb => by
    rw [List.nodup_cons] at hn
    have hother : ∀ k ∈ js, (drawPixel s j).fb.read k = s.fb.read k := fun k hk =>
      drawPixel_other_cell fun e => hn.1 (e ▸ hk)
    obtain ⟨ih1, ih2, ih3⟩ := blit_on_bits (s := drawPixel s j) hn.2 (fun k hk => hj k (List.mem_cons_of_mem _ hk))
      (drawPixel_wf (hj _ List.mem_cons_self) hw)
      (fun k hk => by rw [hother k hk]; exact hb k (List.mem_cons_of_mem _ hk))
    have hbj := hb j List.mem_cons_self
    obtain ⟨hf, hfree⟩ := drawPixel_bit_flag hbj
    have hex : (∃ k ∈ js, (drawPixel s j).fb.read k = 1) ↔ ∃ k ∈ js, s.fb.read k = 1 :=
      exists_congr fun k => and_congr_right fun hk => by rw [hother k hk]
    refine ⟨fun k hk => ?_, ?_, ih3.trans hfree⟩
    · rcases List.mem_cons.1 hk with rfl | hk
      · exact (blit_other_cell (s := drawPixel s k) hn.1).trans (drawPixel_bit_cell hw hbj)
      · exact (ih1 k hk).trans (by rw [hother k hk])
    · refine Eq.trans ih2 ?_
      rw [hf]
      by_cases h1 : s.fb.read j = 1
      · simp [h1]
      · simp only [hex, List.mem_cons, exists_eq_or_imp, h1, false_or, if_false]

/-- The cells of a target: one in range for every column and row of the sprite (10_state.md R27). -/
theorem cellIndex_lt {x y : Nat} (hx : x < Config.fbWidth) (hy : y < Config.fbHeight) :
    cellIndex x y < Config.fbSize := by
  unfold cellIndex Config.fbSize; unfold Config.fbWidth at *; unfold Config.fbHeight at hy; omega

theorem cellIndex_inj {x y x' y' : Nat} (hx : x < Config.fbWidth) (hx' : x' < Config.fbWidth)
    (h : cellIndex x y = cellIndex x' y') : x = x' ∧ y = y' := by
  unfold cellIndex at h; unfold Config.fbWidth at *; omega

end Sys2Proof.Machine
end

