-- ==== Sys2Proof/Laws/Decode.lean ====
section
/-! SUPPORT. The fields of the words the encoder builds, and what a mask of the opcode map keeps of them. -/

namespace Sys2Proof

section
variable (op : Nibble) (x y : Reg) (n : Nibble) (nn : Byte) (nnn : Addr12)

/-! Bit by bit. -/

theorem getLsbD_formatA (i : Nat) :
    (formatA op nnn).getLsbD i = if i < 12 then nnn.getLsbD i else op.getLsbD (i - 12) :=
  BitVec.getLsbD_append

theorem getLsbD_formatI (i : Nat) :
    (formatI op x nn).getLsbD i =
      if i < 12 then (if i < 8 then nn.getLsbD i else x.getLsbD (i - 8)) else op.getLsbD (i - 12) := by
  rw [← show (x ++ nn : BitVec 12).getLsbD i = _ from BitVec.getLsbD_append]
  exact BitVec.getLsbD_append

theorem getLsbD_formatR (i : Nat) :
    (formatR op x y n).getLsbD i =
      if i < 12 then (if i < 8 then (if i < 4 then n.getLsbD i else y.getLsbD (i - 4)) else x.getLsbD (i - 8))
      else op.getLsbD (i - 12) := by
  rw [← show (y ++ n : BitVec 8).getLsbD i = _ from BitVec.getLsbD_append,
    ← show (x ++ (y ++ n : BitVec 8) : BitVec 12).getLsbD i = _ from BitVec.getLsbD_append]
  exact BitVec.getLsbD_append

/-! Field by field. -/

@[simp] theorem opField_formatA : opField (formatA op nnn) = op := by
  apply BitVec.eq_of_getLsbD_eq; intro i hi
  simp [opField, getLsbD_formatA, hi]

@[simp] theorem nnnField_formatA : nnnField (formatA op nnn) = nnn := by
  apply BitVec.eq_of_getLsbD_eq; intro i hi
  simp [nnnField, getLsbD_formatA, hi]

@[simp] theorem opField_formatI : opField (formatI op x nn) = op := by
  apply BitVec.eq_of_getLsbD_eq; intro i hi
  simp [opField, getLsbD_formatI, hi]

@[simp] theorem xField_formatI : xField (formatI op x nn) = x := by
  apply BitVec.eq_of_getLsbD_eq; intro i hi
  simp [xField, getLsbD_formatI, hi, show 8 + i < 12 by omega]

@[simp] theorem nnField_formatI : nnField (formatI op x nn) = nn := by
  apply BitVec.eq_of_getLsbD_eq; intro i hi
  simp [nnField, getLsbD_formatI, hi, show i < 12 by omega]

@[simp] theorem opField_formatR : opField (formatR op x y n) = op := by
  apply BitVec.eq_of_getLsbD_eq; intro i hi
  simp [opField, getLsbD_formatR, hi]

@[simp] theorem xField_formatR : xField (formatR op x y n) = x := by
  apply BitVec.eq_of_getLsbD_eq; intro i hi
  simp [xField, getLsbD_formatR, hi, show 8 + i < 12 by omega]

@[simp] theorem yField_formatR : yField (formatR op x y n) = y := by
  apply BitVec.eq_of_getLsbD_eq; intro i hi
  simp [yField, getLsbD_formatR, hi, show 4 + i < 12 by omega, show 4 + i < 8 by omega]

@[simp] theorem nField_formatR : nField (formatR op x y n) = n := by
  apply BitVec.eq_of_getLsbD_eq; intro i hi
  simp [nField, getLsbD_formatR, hi, show i < 12 by omega, show i < 8 by omega]

/-! The word a mask of the opcode map keeps: the operands are gone. -/

theorem formatA_and_mask : formatA op nnn &&& 0xF000 = formatA op 0 := by
  apply BitVec.eq_of_getLsbD_eq; intro i hi
  simp only [BitVec.getLsbD_and, getLsbD_formatA]
  interval_cases i <;> simp

theorem formatI_and_family : formatI op x nn &&& 0xF000 = formatI op 0 0 := by
  apply BitVec.eq_of_getLsbD_eq; intro i hi
  simp only [BitVec.getLsbD_and, getLsbD_formatI]
  interval_cases i <;> simp

theorem formatI_and_subOpcode : formatI op x nn &&& 0xF0FF = formatI op 0 nn := by
  apply BitVec.eq_of_getLsbD_eq; intro i hi
  simp only [BitVec.getLsbD_and, getLsbD_formatI]
  interval_cases i <;> simp

theorem formatR_and_family : formatR op x y n &&& 0xF000 = formatR op 0 0 0 := by
  apply BitVec.eq_of_getLsbD_eq; intro i hi
  simp only [BitVec.getLsbD_and, getLsbD_formatR]
  interval_cases i <;> simp

theorem formatR_and_subOpcode : formatR op x y n &&& 0xF00F = formatR op 0 0 n := by
  apply BitVec.eq_of_getLsbD_eq; intro i hi
  simp only [BitVec.getLsbD_and, getLsbD_formatR]
  interval_cases i <;> simp

end

/-! The two bytes of a word, as the fetch unit joins them (20_memory.md R42). -/

theorem getLsbD_wordOfBytes (a b : Byte) (i : Nat) :
    (wordOfBytes a b).getLsbD i = if i < 8 then b.getLsbD i else a.getLsbD (i - 8) :=
  BitVec.getLsbD_append

@[simp] theorem wordOfBytes_bytes (w : Word) : wordOfBytes (highByte w) (lowByte w) = w := by
  apply BitVec.eq_of_getLsbD_eq; intro i hi
  rw [getLsbD_wordOfBytes]
  split
  · simp [lowByte, *]
  · simp [highByte, show i - 8 < 8 by omega, show 8 + (i - 8) = i by omega]

@[simp] theorem highByte_wordOfBytes (a b : Byte) : highByte (wordOfBytes a b) = a := by
  apply BitVec.eq_of_getLsbD_eq; intro i hi
  simp [highByte, getLsbD_wordOfBytes, hi]

@[simp] theorem lowByte_wordOfBytes (a b : Byte) : lowByte (wordOfBytes a b) = b := by
  apply BitVec.eq_of_getLsbD_eq; intro i hi
  simp [lowByte, getLsbD_wordOfBytes, hi]

/-- The word as a number. -/
theorem toNat_wordOfBytes (a b : Byte) : (wordOfBytes a b).toNat = a.toNat * 256 + b.toNat := by
  have h : (wordOfBytes a b).toNat = a.toNat <<< 8 ||| b.toNat := BitVec.toNat_append a b
  rw [h, ← Nat.shiftLeft_add_eq_or_of_lt b.isLt, Nat.shiftLeft_eq]

/-! A word is the format of its own fields. -/

theorem formatA_fields (w : Word) : formatA (opField w) (nnnField w) = w := by
  apply BitVec.eq_of_getLsbD_eq; intro i hi
  rw [getLsbD_formatA]
  interval_cases i <;> simp [opField, nnnField]

theorem formatI_fields (w : Word) : formatI (opField w) (xField w) (nnField w) = w := by
  apply BitVec.eq_of_getLsbD_eq; intro i hi
  rw [getLsbD_formatI]
  interval_cases i <;> simp [opField, xField, nnField]

theorem formatR_fields (w : Word) : formatR (opField w) (xField w) (yField w) (nField w) = w := by
  apply BitVec.eq_of_getLsbD_eq; intro i hi
  rw [getLsbD_formatR]
  interval_cases i <;> simp [opField, xField, yField, nField]

end Sys2Proof
end

