-- ==== Sys2Proof/Laws/PerInstr.lean ====
section
/-! SUPPORT. Statements about every instruction as syntax, one lemma a constructor. -/

namespace Sys2Proof.Laws.EncodesItsRow

/-- The word of an instruction selects the row of the opcode map that bears its mnemonic (30_encoding.md R65). -/
def Statement (i : Instr) : Prop := ∃ r ∈ opcodeRows, r.mnemonic = i.mnemonic ∧ r.selects (encode i) = true

/-- The statement from the row itself and the fact that its mask keeps its value of the word. -/
theorem of_row {i : Instr} (r : OpRow) (hr : r ∈ opcodeRows) (hm : r.mnemonic = i.mnemonic)
    (hw : encode i &&& r.mask = r.val) : Statement i := ⟨r, hr, hm, by simpa [OpRow.selects] using hw⟩

theorem cls : Statement .cls := of_row ⟨"CLS", 0xFFFF, 0x00E0⟩ (by decide) rfl (by decide)
theorem ret : Statement .ret := of_row ⟨"RET", 0xFFFF, 0x00EE⟩ (by decide) rfl (by decide)
theorem jp (nnn : Addr12) : Statement (.jp nnn) :=
  of_row ⟨"JP", 0xF000, 0x1000⟩ (by decide) rfl (formatA_and_mask _ _)
theorem call (nnn : Addr12) : Statement (.call nnn) :=
  of_row ⟨"CALL", 0xF000, 0x2000⟩ (by decide) rfl (formatA_and_mask _ _)
theorem seNn (x : Reg) (nn : Byte) : Statement (.seNn x nn) :=
  of_row ⟨"SE_NN", 0xF000, 0x3000⟩ (by decide) rfl (formatI_and_family _ _ _)
theorem sneNn (x : Reg) (nn : Byte) : Statement (.sneNn x nn) :=
  of_row ⟨"SNE_NN", 0xF000, 0x4000⟩ (by decide) rfl (formatI_and_family _ _ _)
theorem seVy (x y : Reg) (n : Nibble) : Statement (.seVy x y n) :=
  of_row ⟨"SE_VY", 0xF000, 0x5000⟩ (by decide) rfl (formatR_and_family _ _ _ _)
theorem ldNn (x : Reg) (nn : Byte) : Statement (.ldNn x nn) :=
  of_row ⟨"LD_NN", 0xF000, 0x6000⟩ (by decide) rfl (formatI_and_family _ _ _)
theorem addNn (x : Reg) (nn : Byte) : Statement (.addNn x nn) :=
  of_row ⟨"ADD_NN", 0xF000, 0x7000⟩ (by decide) rfl (formatI_and_family _ _ _)
theorem ldVy (x y : Reg) : Statement (.ldVy x y) :=
  of_row ⟨"LD_VY", 0xF00F, 0x8000⟩ (by decide) rfl (formatR_and_subOpcode _ _ _ _)
theorem orVy (x y : Reg) : Statement (.orVy x y) :=
  of_row ⟨"OR", 0xF00F, 0x8001⟩ (by decide) rfl (formatR_and_subOpcode _ _ _ _)
theorem andVy (x y : Reg) : Statement (.andVy x y) :=
  of_row ⟨"AND", 0xF00F, 0x8002⟩ (by decide) rfl (formatR_and_subOpcode _ _ _ _)
theorem xorVy (x y : Reg) : Statement (.xorVy x y) :=
  of_row ⟨"XOR", 0xF00F, 0x8003⟩ (by decide) rfl (formatR_and_subOpcode _ _ _ _)
theorem addVy (x y : Reg) : Statement (.addVy x y) :=
  of_row ⟨"ADD_VY", 0xF00F, 0x8004⟩ (by decide) rfl (formatR_and_subOpcode _ _ _ _)
theorem sub (x y : Reg) : Statement (.sub x y) :=
  of_row ⟨"SUB", 0xF00F, 0x8005⟩ (by decide) rfl (formatR_and_subOpcode _ _ _ _)
theorem shr (x y : Reg) : Statement (.shr x y) :=
  of_row ⟨"SHR", 0xF00F, 0x8006⟩ (by decide) rfl (formatR_and_subOpcode _ _ _ _)
theorem subn (x y : Reg) : Statement (.subn x y) :=
  of_row ⟨"SUBN", 0xF00F, 0x8007⟩ (by decide) rfl (formatR_and_subOpcode _ _ _ _)
theorem shl (x y : Reg) : Statement (.shl x y) :=
  of_row ⟨"SHL", 0xF00F, 0x800E⟩ (by decide) rfl (formatR_and_subOpcode _ _ _ _)
theorem sneVy (x y : Reg) (n : Nibble) : Statement (.sneVy x y n) :=
  of_row ⟨"SNE_VY", 0xF000, 0x9000⟩ (by decide) rfl (formatR_and_family _ _ _ _)
theorem ldI (nnn : Addr12) : Statement (.ldI nnn) :=
  of_row ⟨"LD_I", 0xF000, 0xA000⟩ (by decide) rfl (formatA_and_mask _ _)
theorem jpV0 (nnn : Addr12) : Statement (.jpV0 nnn) :=
  of_row ⟨"JP_V0", 0xF000, 0xB000⟩ (by decide) rfl (formatA_and_mask _ _)
theorem drw (x y : Reg) (n : Nibble) : Statement (.drw x y n) :=
  of_row ⟨"DRW", 0xF000, 0xD000⟩ (by decide) rfl (formatR_and_family _ _ _ _)
theorem skp (x : Reg) : Statement (.skp x) :=
  of_row ⟨"SKP", 0xF0FF, 0xE09E⟩ (by decide) rfl (formatI_and_subOpcode _ _ _)
theorem sknp (x : Reg) : Statement (.sknp x) :=
  of_row ⟨"SKNP", 0xF0FF, 0xE0A1⟩ (by decide) rfl (formatI_and_subOpcode _ _ _)
theorem ldVxDt (x : Reg) : Statement (.ldVxDt x) :=
  of_row ⟨"LD_VX_DT", 0xF0FF, 0xF007⟩ (by decide) rfl (formatI_and_subOpcode _ _ _)
theorem ldVxK (x : Reg) : Statement (.ldVxK x) :=
  of_row ⟨"LD_VX_K", 0xF0FF, 0xF00A⟩ (by decide) rfl (formatI_and_subOpcode _ _ _)
theorem ldDtVx (x : Reg) : Statement (.ldDtVx x) :=
  of_row ⟨"LD_DT_VX", 0xF0FF, 0xF015⟩ (by decide) rfl (formatI_and_subOpcode _ _ _)
theorem ldStVx (x : Reg) : Statement (.ldStVx x) :=
  of_row ⟨"LD_ST_VX", 0xF0FF, 0xF018⟩ (by decide) rfl (formatI_and_subOpcode _ _ _)
theorem addI (x : Reg) : Statement (.addI x) :=
  of_row ⟨"ADD_I", 0xF0FF, 0xF01E⟩ (by decide) rfl (formatI_and_subOpcode _ _ _)
theorem bcd (x : Reg) : Statement (.bcd x) :=
  of_row ⟨"BCD", 0xF0FF, 0xF033⟩ (by decide) rfl (formatI_and_subOpcode _ _ _)
theorem store (x : Reg) : Statement (.store x) :=
  of_row ⟨"STORE", 0xF0FF, 0xF055⟩ (by decide) rfl (formatI_and_subOpcode _ _ _)
theorem load (x : Reg) : Statement (.load x) :=
  of_row ⟨"LOAD", 0xF0FF, 0xF065⟩ (by decide) rfl (formatI_and_subOpcode _ _ _)

end Sys2Proof.Laws.EncodesItsRow
end

