-- ==== Sys2Proof/Laws/Step.lean ====
section
/-! SUPPORT. Everything a step can do (`step_cases`), and what the delivery of the planned host events leaves
alone. -/

namespace Sys2Proof.Machine

/-- The part of the state no host event writes. -/
structure HostFrame (s t : State) : Prop where
  v : t.v = s.v
  pc : t.pc = s.pc
  ireg : t.ireg = s.ireg
  stack : t.stack = s.stack
  sp : t.sp = s.sp
  quirkShift : t.quirkShift = s.quirkShift
  clipping : t.clipping = s.clipping
  mem : t.mem = s.mem
  fb : t.fb = s.fb
  fault : t.fault = s.fault
  diag : t.diag = s.diag
  free : t.free = s.free

theorem HostFrame.trans {s t u : State} (h : HostFrame s t) (k : HostFrame t u) : HostFrame s u :=
  ⟨k.v.trans h.v, k.pc.trans h.pc, k.ireg.trans h.ireg, k.stack.trans h.stack, k.sp.trans h.sp,
    k.quirkShift.trans h.quirkShift, k.clipping.trans h.clipping, k.mem.trans h.mem, k.fb.trans h.fb,
    k.fault.trans h.fault, k.diag.trans h.diag, k.free.trans h.free⟩

theorem hostEvent_frame (s : State) (e : HostEvent) : HostFrame s (s.hostEvent e) := by
  cases e <;> constructor <;> rfl

theorem hostEvents_frame : ∀ (es : List HostEvent) (s : State), HostFrame s (es.foldl State.hostEvent s)
  | [], s => by constructor <;> rfl
  | e :: es, s => (hostEvent_frame s e).trans (hostEvents_frame es _)

theorem deliver_frame (s : State) : HostFrame s s.deliver := by
  unfold State.deliver
  split
  · constructor <;> rfl
  · rename_i es rest _
    exact HostFrame.trans (t := { s with schedule := rest }) (by constructor <;> rfl) (hostEvents_frame es _)

@[simp] theorem deliver_of_no_schedule {s : State} (h : s.schedule = []) : s.deliver = s := by
  unfold State.deliver; rw [h]

/-- Everything a step can do. -/
theorem step_cases (s : State) :
    (s.fault ≠ none ∧ step s = .fault .stepAfterFatalFetch) ∨
    (s.fault = none ∧ s.deliver.fetchInBounds = false ∧ step s = .next s.deliver.raiseFetchOutOfBounds) ∨
    (s.fault = none ∧ s.deliver.fetchInBounds = true ∧
      ((∃ i, decode s.deliver.fetchWord = .ok i ∧ step s = exec i s.deliver.advance) ∨
        (∃ e, decode s.deliver.fetchWord = .error e ∧
          step s = .next (s.deliver.advance.report .unrecognizedOpcode s.deliver.fetchWord)))) := by
  unfold step
  cases hf : s.fault with
  | some m => exact .inl ⟨by simp, rfl⟩
  | none =>
    refine .inr ?_
    unfold cycle
    cases hb : s.deliver.fetchInBounds with
    | false => exact .inl ⟨rfl, rfl, rfl⟩
    | true =>
      refine .inr ⟨rfl, rfl, ?_⟩
      simp only [if_true, execWord]
      cases hd : decode s.deliver.fetchWord with
      | ok i => exact .inl ⟨i, rfl, rfl⟩
      | error e => exact .inr ⟨e, rfl, rfl⟩

end Sys2Proof.Machine
end

