-- ==== Sys2Proof/WellFormed.lean ====
section
/-! DEFINITION. Which instructions are well-formed. Every range the encoding imposes is carried by a field's
type (Syntax.lean); the one thing left to check is the nibble that `5XYn` and `9XYn` do not decode, whose
canonical value is 0 (30_encoding.md R69). The hardware runs a word that is not canonical exactly as the
canonical one, and so does this model: `wellFormed` says what an assembler emits, not what executes. -/

namespace Sys2Proof

/-- The canonical form of an instruction (R69: "The canonical encoding, the one an assembler emits, has n = 0"). -/
def Instr.wellFormed : Instr → Bool
  | .seVy _ _ n => n == 0
  | .sneVy _ _ n => n == 0
  | .cls | .ret | .jp _ | .call _ | .seNn _ _ | .sneNn _ _ | .ldNn _ _ | .addNn _ _ | .ldVy _ _ | .orVy _ _
  | .andVy _ _ | .xorVy _ _ | .addVy _ _ | .sub _ _ | .shr _ _ | .subn _ _ | .shl _ _ | .ldI _ | .jpV0 _
  | .drw _ _ _ | .skp _ | .sknp _ | .ldVxDt _ | .ldVxK _ | .ldDtVx _ | .ldStVx _ | .addI _ | .bcd _
  | .store _ | .load _ => true

end Sys2Proof
end

