-- ==== Sys2Proof/Tests/Slice0.lean ====
section
/-! SUPPORT. The model's own tests. Words are written out from the encodings of 30_encoding.md R65; the expected
results of the step tests are vectors of 95_test_vectors.md, named in each comment; the witnesses show, for every
statement with hypotheses, a concrete state and operands that meet them. -/

open Sys2Proof Sys2Proof.Machine Sys2Proof.Claims

namespace Sys2Proof.Tests

/-! ## Small states and what is looked at after a step -/

/-- `s` with the word `w` at 0x200 and `pc` there. -/
def at200 (w : Word) (s : State) : State :=
  { s with pc := 0x200, mem := (s.mem.write 0x200 (highByte w)).write 0x201 (lowByte w) }

/-- The reset state with two registers written. -/
def regs (x : Reg) (a : Byte) (y : Reg) (b : Byte) : State := (State.reset.writeV x a).writeV y b

/-- What `f` sees in the next state. -/
def seen {α : Type} (f : State → α) : Host.Outcome State Fault Refusal → Option α
  | .next t => some (f t)
  | .fault _ => none
  | .refused _ => none

/-- What `f` sees after the step that runs `w` from `s`. -/
def after {α : Type} (w : Word) (s : State) (f : State → α) : Option α := seen f (step (at200 w s))

/-! ## WellFormed: the two checks refuse -/

theorem test_wellFormed_refuses_seVy_nibble : (Instr.seVy 1 2 7).wellFormed = false := by decide
theorem test_wellFormed_refuses_sneVy_nibble : (Instr.sneVy 1 2 1).wellFormed = false := by decide
theorem test_wellFormed_accepts_canonical : (Instr.seVy 1 2 0).wellFormed = true := by decide

/-! ## Decoding: every row of the opcode map, bits written out -/

theorem test_decode_format_Z : decode 0b0000000011100000 = .ok .cls ∧ decode 0b0000000011101110 = .ok .ret := by decide

theorem test_decode_format_A :
    decode 0b0001101010111100 = .ok (.jp 0xABC) ∧ decode 0b0010001100000000 = .ok (.call 0x300) ∧
    decode 0b1010000100100011 = .ok (.ldI 0x123) ∧ decode 0b1011001100000001 = .ok (.jpV0 0x301) := by decide

theorem test_decode_format_I :
    decode 0b0011101001000010 = .ok (.seNn 0xA 0x42) ∧ decode 0b0100101001000010 = .ok (.sneNn 0xA 0x42) ∧
    decode 0b0110101001000010 = .ok (.ldNn 0xA 0x42) ∧ decode 0b0111010100000101 = .ok (.addNn 5 5) := by decide

theorem test_decode_format_R_skips :
    decode 0b0101000100100000 = .ok (.seVy 1 2 0) ∧ decode 0b0101000100100111 = .ok (.seVy 1 2 7) ∧
    decode 0b1001000100100000 = .ok (.sneVy 1 2 0) ∧ decode 0b1001000100101111 = .ok (.sneVy 1 2 15) := by decide

theorem test_decode_format_R_logic :
    decode 0b1000000100100000 = .ok (.ldVy 1 2) ∧ decode 0b1000000100100001 = .ok (.orVy 1 2) ∧
    decode 0b1000000100100010 = .ok (.andVy 1 2) ∧ decode 0b1000000100100011 = .ok (.xorVy 1 2) := by decide

theorem test_decode_format_R_flags :
    decode 0b1000000000010100 = .ok (.addVy 0 1) ∧ decode 0b1000000000010101 = .ok (.sub 0 1) ∧
    decode 0b1000000000010110 = .ok (.shr 0 1) ∧ decode 0b1000000000010111 = .ok (.subn 0 1) ∧
    decode 0b1000000000011110 = .ok (.shl 0 1) := by decide

theorem test_decode_format_D : decode 0b1101000000010101 = .ok (.drw 0 1 5) := by decide

theorem test_decode_format_S_keys :
    decode 0b1110001110011110 = .ok (.skp 3) ∧ decode 0b1110001110100001 = .ok (.sknp 3) ∧
    decode 0b1111010100001010 = .ok (.ldVxK 5) := by decide

theorem test_decode_format_S_transfer :
    decode 0b1111001100000111 = .ok (.ldVxDt 3) ∧ decode 0b1111001100010101 = .ok (.ldDtVx 3) ∧
    decode 0b1111001100011000 = .ok (.ldStVx 3) ∧ decode 0b1111001000011110 = .ok (.addI 2) ∧
    decode 0b1111010100110011 = .ok (.bcd 5) ∧ decode 0b1111001101010101 = .ok (.store 3) ∧
    decode 0b1111001101100101 = .ok (.load 3) := by decide

/-- Vectors U1 to U9. -/
theorem test_decode_unrecognized :
    decode 0x0000 = .error .family0 ∧ decode 0x00E1 = .error .family0 ∧ decode 0x0123 = .error .family0 ∧
    decode 0x8128 = .error .family8SubOpcode ∧ decode 0x800F = .error .family8SubOpcode ∧
    decode 0xC0FF = .error .familyC ∧ decode 0xE19F = .error .familyESubOpcode ∧
    decode 0xF129 = .error .familyFSubOpcode ∧ decode 0xF000 = .error .familyFSubOpcode := by decide

/-- R42: the byte at the lower address is the high one; one byte alone is no instruction. -/
theorem test_decodeBytes : decodeBytes [0x12, 0x34, 0x56] = .ok (.jp 0x234, [0x56]) ∧
    decodeBytes [0x12] = .error .truncated ∧ decodeTableWord 16 0x1234 = some (.jp 0x234) ∧
    decodeTableWord 16 0xC0FF = none := by decide

theorem test_withFetchWord : seen (fun t => t.readV 10) (step (State.reset.withFetchWord 16 0x6A42)) = some 0x42 := by
  decide

/-! ## The step -/

/-- F1 and F2: the last word that can be fetched, and the first address that cannot. -/
theorem test_fetch_last : seen (fun t => (t.pc, t.fault)) (step { State.reset with
    pc := 0xFFE, mem := [(0xFFE, 0x60)] }) = some (0x1000, none) := by decide
theorem test_fetch_beyond : seen (fun t => (t.pc, t.fault)) (step { State.reset with pc := 0xFFF }) =
    some (0xFFF, some (.fetchOutOfBounds 0xFFF)) := by decide
theorem test_step_faulted : (match step { State.reset with fault := some (.fetchOutOfBounds 0xFFF) } with
    | .fault .stepAfterFatalFetch => true | _ => false) = true := by decide
/-- U1, L2. -/
theorem test_unrecognized : seen (fun t => (t.pc, t.diag)) (step State.reset) =
    some (0x202, [⟨.unrecognizedOpcode, 0x0000, 0x200⟩]) := by decide
/-- W3: a tick and a key press planned before the step. -/
theorem test_scheduled_events : after 0xF50A { State.reset with dt := 3, schedule := [[.tick, .keyDown 0xF]] }
    (fun t => (t.dt, t.readV 5, t.pc, t.schedule)) = some (2, 0x0F, 0x202, []) := by decide

/-! ## Control flow -/

/-- J1. -/
theorem test_jp : after 0x1FFF State.reset (·.pc) = some 0xFFF := by decide
/-- J4, J5. -/
theorem test_jpV0_no_wrap : after 0xBFFF (State.reset.writeV 0 0xFF) (·.pc) = some 0x10FE := by decide
theorem test_jpV0_uses_V0 : after 0xB300 (regs 0 0x05 3 0x77) (·.pc) = some 0x305 := by decide
/-- J6 (at 0x200). -/
theorem test_call_wraps : after 0x2300 { State.reset with sp := 15 }
    (fun t => (t.readStack 15, t.sp, t.pc)) = some (0x202, 0, 0x300) := by decide
/-- J7. -/
theorem test_ret_wraps : after 0x00EE { State.reset with stack := State.reset.stack.set 15 0x0ABC }
    (fun t => (t.sp, t.pc, t.readStack 15)) = some (15, 0xABC, 0xABC) := by decide
/-- S1 to S10, S12. -/
theorem test_seNn : after 0x3A42 (State.reset.writeV 10 0x42) (·.pc) = some 0x204 ∧
    after 0x3A42 (State.reset.writeV 10 0x41) (·.pc) = some 0x202 := by decide
theorem test_sneNn : after 0x4A42 (State.reset.writeV 10 0x42) (·.pc) = some 0x202 ∧
    after 0x4A42 State.reset (·.pc) = some 0x204 := by decide
theorem test_seVy : after 0x5120 (regs 1 7 2 7) (·.pc) = some 0x204 ∧ after 0x5120 (regs 1 7 2 8) (·.pc) = some 0x202 ∧
    after 0x5127 (regs 1 7 2 7) (·.pc) = some 0x204 := by decide
theorem test_sneVy : after 0x9120 (regs 1 7 2 8) (·.pc) = some 0x204 ∧ after 0x9120 (regs 1 7 2 7) (·.pc) = some 0x202 ∧
    after 0x9127 (regs 1 7 2 7) (·.pc) = some 0x202 := by decide
theorem test_skip_at_the_top : seen (·.pc) (step { State.reset.writeV 10 0x42 with
    pc := 0xFFE, mem := [(0xFFE, 0x3A), (0xFFF, 0x42)] }) = some 0x1002 := by decide
/-- K1, K2, K6. -/
theorem test_skp : after 0xE39E { State.reset.writeV 3 0x0A with key := some 0xA } (·.pc) = some 0x204 ∧
    after 0xE39E (State.reset.writeV 3 0x0A) (·.pc) = some 0x202 ∧
    after 0xE39E { State.reset.writeV 3 0x1A with key := some 0xA } (·.pc) = some 0x202 := by decide
/-- K3, K4, K7. -/
theorem test_sknp : after 0xE3A1 { State.reset.writeV 3 0x0A with key := some 0xA } (·.pc) = some 0x202 ∧
    after 0xE3A1 (State.reset.writeV 3 0x0A) (·.pc) = some 0x204 ∧
    after 0xE3A1 { State.reset.writeV 3 0x1A with key := some 0xA } (·.pc) = some 0x204 := by decide
/-- W1, W2. -/
theorem test_ldVxK_waits : after 0xF50A (State.reset.writeV 5 0x99) (fun t => (t.readV 5, t.pc)) =
    some (0x99, 0x200) := by decide
theorem test_ldVxK_loads : after 0xF50A { State.reset.writeV 5 0x99 with key := some 7 }
    (fun t => (t.readV 5, t.pc, t.key)) = some (7, 0x202, some 7) := by decide

/-! ## ALU: V[X], VF -/

/-- The example of R111; A13. -/
theorem test_ldVy : after 0x8120 (State.reset.writeV 2 0x5A) (·.readV 1) = some 0x5A ∧
    after 0x8F10 (regs 1 0x77 15 1) (·.readV 15) = some 0x77 := by decide
/-- A9 to A11. -/
theorem test_orVy : after 0x8121 ((regs 1 0xF0 2 0x0C).writeV 15 7) (fun t => (t.readV 1, t.readV 15)) =
    some (0xFC, 7) := by decide
theorem test_andVy : after 0x8122 ((regs 1 0xF0 2 0x3C).writeV 15 7) (fun t => (t.readV 1, t.readV 15)) =
    some (0x30, 7) := by decide
theorem test_xorVy : after 0x8123 ((regs 1 0xF0 2 0x3C).writeV 15 7) (fun t => (t.readV 1, t.readV 15)) =
    some (0xCC, 7) := by decide
/-- T4a, A2, A4, A5. -/
theorem test_addVy : after 0x8014 (regs 0 0xF0 1 0x10) (fun t => (t.readV 0, t.readV 15)) = some (0x00, 1) ∧
    after 0x8014 (regs 0 0xFF 1 0xFF) (fun t => (t.readV 0, t.readV 15)) = some (0xFE, 1) := by decide
theorem test_addVy_flag_register : after 0x8F14 (regs 15 0x80 1 0x80) (·.readV 15) = some 1 ∧
    after 0x80F4 (regs 0 1 15 5) (fun t => (t.readV 0, t.readV 15)) = some (6, 0) := by decide
/-- T4b, A6. -/
theorem test_sub : after 0x8015 (regs 0 0x10 1 0x20) (fun t => (t.readV 0, t.readV 15)) = some (0xF0, 0) ∧
    after 0x8115 (regs 1 0x33 15 9) (fun t => (t.readV 1, t.readV 15)) = some (0, 1) := by decide
/-- T4c, A8. -/
theorem test_subn : after 0x8017 (regs 0 0x10 1 0x20) (fun t => (t.readV 0, t.readV 15)) = some (0x10, 1) ∧
    after 0x8017 (regs 0 1 1 0) (fun t => (t.readV 0, t.readV 15)) = some (0xFF, 0) := by decide
/-- A16, both modes; A18 legacy. -/
theorem test_shr : after 0x8016 (regs 0 0xAA 1 0x07) (fun t => (t.readV 0, t.readV 15)) = some (0x55, 0) ∧
    after 0x8016 { regs 0 0xAA 1 0x07 with quirkShift := false } (fun t => (t.readV 0, t.readV 15, t.readV 1)) =
      some (0x03, 1, 0x07) := by decide
theorem test_shr_legacy_flag_source : after 0x80F6 { regs 0 0xAA 15 0x03 with quirkShift := false }
    (fun t => (t.readV 0, t.readV 15)) = some (0x01, 1) := by decide
/-- A17, both modes; A19 both modes. -/
theorem test_shl : after 0x801E (regs 0 0xAA 1 0x07) (fun t => (t.readV 0, t.readV 15)) = some (0x54, 1) ∧
    after 0x801E { regs 0 0xAA 1 0x07 with quirkShift := false } (fun t => (t.readV 0, t.readV 15)) =
      some (0x0E, 0) := by decide
theorem test_shl_flag_destination : after 0x8F1E { State.reset.writeV 1 0xC0 with quirkShift := false } (·.readV 15) = some 1 ∧
    after 0x8F1E (State.reset.writeV 1 0xC0) (·.readV 15) = some 0 := by decide

/-! ## Immediate loads -/

/-- T3a, I4. -/
theorem test_ldNn : after 0x6A42 State.reset (·.readV 10) = some 0x42 ∧ after 0x6FFF State.reset (·.readV 15) = some 0xFF := by
  decide
/-- I1, T3b. -/
theorem test_addNn : after 0x7001 (regs 0 0xFF 15 9) (fun t => (t.readV 0, t.readV 15)) = some (0, 9) ∧
    after 0x7505 (State.reset.writeV 5 0x10) (·.readV 5) = some 0x15 := by decide
/-- T3c, I5. -/
theorem test_ldI : after 0xA123 State.reset (·.ireg) = some 0x0123 ∧
    after 0xA000 { State.reset with ireg := 0xFFFF } (·.ireg) = some 0 := by decide

/-! ## Memory transfer -/

/-- X1, X2. -/
theorem test_ldVxDt : after 0xF307 { State.reset with dt := 0x2C } (fun t => (t.readV 3, t.dt)) = some (0x2C, 0x2C) := by decide
theorem test_ldDtVx : after 0xF315 (State.reset.writeV 3 0x3C) (fun t => (t.dt, t.st)) = some (0x3C, 0) := by decide
theorem test_ldStVx : after 0xF318 (State.reset.writeV 3 0x3C) (fun t => (t.dt, t.st)) = some (0, 0x3C) := by decide
/-- X5, X6. -/
theorem test_addI : after 0xF01E { regs 0 1 15 7 with ireg := 0xFFFF } (fun t => (t.ireg, t.readV 15)) = some (0, 7) ∧
    after 0xF01E { regs 0 1 15 7 with ireg := 0x0FFF } (fun t => (t.ireg, t.readV 15)) = some (0x1000, 7) := by decide
/-- B5, B6. -/
theorem test_bcd_at_the_top : after 0xF033 { State.reset.writeV 0 255 with ireg := 4093 }
    (fun t => (t.mem.readBytes 4093 3, t.diag)) = some ([2, 5, 5], []) := by decide
theorem test_bcd_refused : after 0xF033 { State.reset.writeV 0 255 with ireg := 4094 }
    (fun t => (t.mem.readBytes 4093 3, t.diag, t.pc)) =
      some ([0, 0, 0], [⟨.transferOutOfBounds, 0xF033, 0x200⟩], 0x202) := by decide
/-- M1, M2. -/
theorem test_store_last_byte : after 0xF055 { State.reset.writeV 0 0xAB with ireg := 4095 }
    (fun t => (t.mem.read 4095, t.diag)) = some (0xAB, []) := by decide
theorem test_store_refused : after 0xF155 { regs 0 0xAB 1 0xCD with ireg := 4095 }
    (fun t => (t.mem.read 4095, t.diag)) = some (0, [⟨.transferOutOfBounds, 0xF155, 0x200⟩]) := by decide
/-- M7, M8 (with one register). -/
theorem test_load : after 0xF165 { State.reset.writeV 2 0x99 with ireg := 0x300, mem := [(0x300, 0x11), (0x301, 0x22)] }
    (fun t => (t.readV 0, t.readV 1, t.readV 2, t.ireg)) = some (0x11, 0x22, 0x99, 0x300) := by decide
theorem test_load_refused : after 0xF665 { State.reset.writeV 0 0x55 with ireg := 4090 }
    (fun t => (t.readV 0, t.diag)) = some (0x55, [⟨.transferOutOfBounds, 0xF665, 0x200⟩]) := by decide

/-! ## Display -/

/-- T2, on one lit cell. -/
theorem test_cls : after 0x00E0 { State.reset.writeV 15 3 with fb := [(7, 1)] } (fun t => (t.fb, t.readV 15)) = some ([], 3) := by
  decide
/-- D3, both edge modes. -/
theorem test_drw_clips : after 0xD011 { regs 0 60 1 5 with ireg := 0x300, mem := [(0x300, 0xFF)] }
    (fun t => (t.fb, t.readV 15)) = some ([(380, 1), (381, 1), (382, 1), (383, 1)], 0) := by decide
theorem test_drw_wraps : after 0xD011 { regs 0 60 1 5 with ireg := 0x300, mem := [(0x300, 0xFF)], clipping := false }
    (fun t => (t.fb.map Prod.fst, t.readV 15)) = some ([320, 321, 322, 323, 380, 381, 382, 383], 0) := by decide
/-- D5, D6. -/
theorem test_drw_collides : after 0xD011 { State.reset with ireg := 0x300, mem := [(0x300, 0xC0)], fb := [(0, 1)] }
    (fun t => (t.fb, t.readV 15)) = some ([(1, 1)], 1) := by decide
/-- D7, D8. -/
theorem test_drw_last_byte : after 0xD011 { State.reset.writeV 15 1 with ireg := 4095, mem := [(4095, 0x80)] }
    (fun t => (t.fb, t.readV 15, t.diag)) = some ([(0, 1)], 0, []) := by decide
theorem test_drw_refused : after 0xD012 { State.reset.writeV 15 1 with ireg := 4095, mem := [(4095, 0x80)] }
    (fun t => (t.fb, t.readV 15, t.diag)) = some ([], 0, [⟨.spriteReadOutOfBounds, 0xD012, 0x200⟩]) := by decide
/-- D9: the column from the old VF. -/
theorem test_drw_flag_coordinate : after 0xDF11 { regs 15 5 1 2 with ireg := 0x300, mem := [(0x300, 0x80)] }
    (fun t => (t.fb, t.readV 15)) = some ([(133, 1)], 0) := by decide

/-! ## The host's moves -/

/-- X3. -/
theorem test_tick : ({ State.reset with dt := 2 } : State).tick.dt = 1 ∧ State.reset.tick.dt = 0 ∧ State.reset.tick.st = 0 := by
  decide
theorem test_keys : (State.reset.keyDown 7).key = some 7 ∧ (State.reset.keyDown 7).keyUp.key = none := by decide
/-- L3: LOAD of one byte. -/
theorem test_load_program : seen (·.pc) (step (State.reset.load [0x12])) = some 0x200 := by decide

/-! ## Witnesses: for every statement with hypotheses, a concrete state and operands that meet all of them, at the
boundary values of their ranges -/

/-- A draw collides at the last row of a sprite that ends at the last byte of memory: one row, `I = 4095`. -/
def drawState : State := { regs 0 63 1 31 with pc := 0x202, ireg := 4095, mem := [(4095, 0x80)], fb := [(2047, 1)] }

/-- A fatal mark that is coherent. -/
def faultedState : State := { State.reset with pc := 0xFFF, fault := some (.fetchOutOfBounds 0xFFF) }

theorem reset_inv : State.reset.Inv := ⟨by decide, by decide, by decide⟩

theorem drawState_inv : drawState.Inv := ⟨by decide, by decide, by decide⟩

theorem faultedState_inv : faultedState.Inv := ⟨by decide, by decide, by decide⟩

theorem drawState_cells : drawState.CellsAreBits := by
  intro j _
  by_cases h : 2047 = j
  · exact .inr (by simp [drawState, Memory.read, h])
  · exact .inl (by simp [drawState, Memory.read, h, Memory.unlisted])

/-! ### Encoding and the step -/

theorem witness_EncodeOfDecodeIsTheWord : decode 0x9127 = .ok (.sneVy 1 2 7) ∧ decode 0xFF65 = .ok (.load 15) := by decide

theorem witness_DecoderFollowsOpcodeMap :
    (∃ r ∈ opcodeRows, (0x8AB6#16) &&& r.mask = r.val) ∧ decode 0x8AB6 = .ok (.shr 10 11) := by decide

/-- The last word of memory. -/
theorem witness_StepRunsDecodedInstruction :
    let s : State := { State.reset with pc := 0xFFE, mem := [(0xFFE, 0x12), (0xFFF, 0x34)], schedule := [[.tick]] }
    s.fault = none ∧ s.pc.toNat + 1 < 4096 ∧
      (0x1234#16).toNat = (s.mem.read s.pc.toNat).toNat * 256 + (s.mem.read (s.pc.toNat + 1)).toNat ∧
      decode 0x1234 = .ok (.jp 0x234) := by decide

theorem witness_UnrecognizedWordIsReportedAndPassed :
    let s : State := { State.reset with pc := 0xFFE, mem := [(0xFFE, 0xC0)] }
    s.fault = none ∧ s.pc.toNat + 1 < 4096 ∧
      (0xC000#16).toNat = (s.mem.read s.pc.toNat).toNat * 256 + (s.mem.read (s.pc.toNat + 1)).toNat ∧
      decode 0xC000 = .error .familyC := by decide

theorem witness_FetchBeyondMemoryIsFatal :
    ({ State.reset with pc := 4095 } : State).fault = none ∧ 4095 ≤ ({ State.reset with pc := 4095 } : State).pc.toNat := by
  decide

theorem witness_StepStopsExactlyWhenFaulted : State.reset.fault = none ∧ faultedState.fault ≠ none := by decide

/-- A step on a store at the last byte of memory, and the step that sets the mark. -/
theorem witness_StepKeepsInvariant :
    (∃ t, drawState.Inv ∧ step (at200 0xF055 drawState) = .next t ∧ (at200 0xF055 drawState).Inv) ∧
    (∃ t, step { State.reset with pc := 4095 } = .next t ∧ ({ State.reset with pc := 4095 } : State).Inv) :=
  ⟨⟨_, drawState_inv, rfl, by decide, by decide, by decide⟩, ⟨_, rfl, by decide, by decide, by decide⟩⟩

theorem witness_ResetMeetsInvariant : Memory.wf 2048 [(0, 1), (2047, 1)] = true ∧ Memory.wf 2048 [] = true := by decide

theorem witness_HostMovesKeepInvariant : drawState.Inv ∧ faultedState.Inv := ⟨drawState_inv, faultedState_inv⟩

theorem witness_StepKeepsCellsBits :
    ∃ t, drawState.Inv ∧ (at200 0xD011 drawState).Inv ∧ (at200 0xD011 drawState).CellsAreBits ∧
      step (at200 0xD011 drawState) = .next t :=
  ⟨_, drawState_inv, ⟨by decide, by decide, by decide⟩, drawState_cells, rfl⟩

/-! ### Rules about the whole machine -/

theorem witness_QuirkShiftSelectsShiftSource :
    (∃ t, step State.reset = .next t) ∧ (∀ x y, Instr.cls ≠ .shr x y ∧ Instr.cls ≠ .shl x y) ∧
      State.reset.quirkShift = true ∧ ({ State.reset with quirkShift := false } : State).quirkShift = false :=
  ⟨⟨_, rfl⟩, fun _ _ => ⟨nofun, nofun⟩, rfl, rfl⟩

theorem witness_ClippingReadByDrawOnly :
    (∃ t, step State.reset = .next t) ∧ ∀ x y n, Instr.cls ≠ .drw x y n :=
  ⟨⟨_, rfl⟩, fun _ _ _ => nofun⟩

theorem witness_TimersChangeOnlyByTheirInstructions :
    let s := at200 0xF318 { State.reset with schedule := [[.tick]] }
    (∃ t, step s = .next t) ∧ (∀ x, decode s.deliver.fetchWord ≠ .ok (.ldDtVx x)) ∧
      ∀ x, decode (at200 0xF315 s).deliver.fetchWord ≠ .ok (.ldStVx x) :=
  ⟨⟨_, rfl⟩, by decide, by decide⟩

/-- The five flags of the ALU, a draw that collides, one that does not, one that is refused, and the rest. -/
theorem witness_FlagWrittenOnlyAsListed :
    (∃ t, exec (.addVy 15 0) drawState = .next t) ∧ (∃ t, exec (.sub 15 0) drawState = .next t) ∧
    (∃ t, exec (.subn 15 0) drawState = .next t) ∧ (∃ t, exec (.shr 15 0) drawState = .next t) ∧
    (∃ t, exec (.shl 15 0) drawState = .next t) ∧
    (drawState.Inv ∧ drawState.CellsAreBits ∧ (∃ t, exec (.drw 0 1 1) drawState = .next t)) ∧
    (∃ t, exec (.load 14) State.reset = .next t ∧ writesFlag (.load 14) = false ∧ xOf (.load 14) ≠ some 15) :=
  ⟨⟨_, rfl⟩, ⟨_, rfl⟩, ⟨_, rfl⟩, ⟨_, rfl⟩, ⟨_, rfl⟩, ⟨drawState_inv, drawState_cells, _, rfl⟩, _, rfl, rfl, by decide⟩

/-- What the last clause but one distinguishes: a collision, a cell that is dark, a sprite that ends beyond memory. -/
theorem witness_FlagWrittenOnlyAsListed_draw :
    (drawState.ireg.toNat + (1 : Nibble).toNat ≤ 4096 ∧
      ∃ cx < 64, ∃ cy < 32, DrawCovers drawState 0 1 1 cx cy ∧ drawState.pixel cx cy = 1) ∧
    (∀ cx cy, ({ drawState with fb := [] } : State).pixel cx cy ≠ 1) ∧
    ¬ drawState.ireg.toNat + (2 : Nibble).toNat ≤ 4096 :=
  ⟨⟨by decide, 63, by decide, 31, by decide, ⟨0, 0, by decide, by decide, by decide, by decide⟩, by decide⟩,
    fun _ _ => by simp [State.pixel, Memory.read, Memory.unlisted], by decide⟩

theorem witness_SoundTimerHasNoEffect :
    (∃ t, exec (.ldStVx 0) drawState = .next t ∧ t.st ≠ drawState.st) ∧
    (({ drawState with st := 1 } : State).hostEvent .tick).st ≠ ({ drawState with st := 1 } : State).st ∧
    ∃ t, step State.reset = .next t :=
  ⟨⟨_, rfl, by decide⟩, by decide, _, rfl⟩

theorem witness_DiagIsNeverReadBack : ∃ t, step { State.reset with diag := [⟨.unrecognizedOpcode, 0, 0⟩] } = .next t :=
  ⟨_, rfl⟩

/-! ### Frames: each instruction of each group answers a next state -/

theorem witness_JumpsAndSkipsChangeOnlyPc :
    (∃ t, exec (.jp 0xFFF) drawState = .next t) ∧ (∃ t, exec (.jpV0 0xFFF) drawState = .next t) ∧
    (∃ t, exec (.seNn 0 63) drawState = .next t) ∧ (∃ t, exec (.sneNn 0 63) drawState = .next t) ∧
    (∃ t, exec (.seVy 0 1 15) drawState = .next t) ∧ (∃ t, exec (.sneVy 0 1 0) drawState = .next t) ∧
    (∃ t, exec (.skp 0) drawState = .next t) ∧ (∃ t, exec (.sknp 15) drawState = .next t) :=
  ⟨⟨_, rfl⟩, ⟨_, rfl⟩, ⟨_, rfl⟩, ⟨_, rfl⟩, ⟨_, rfl⟩, ⟨_, rfl⟩, ⟨_, rfl⟩, ⟨_, rfl⟩⟩

theorem witness_CallAndReturnFrame :
    (∃ t, exec (.call 0xFFF) { drawState with sp := 15 } = .next t) ∧ (∃ t, exec .ret drawState = .next t) :=
  ⟨⟨_, rfl⟩, ⟨_, rfl⟩⟩

/-- `FX0A` in both cases, `FX65` at the last byte and refused. -/
theorem witness_RegisterWritersFrame :
    (∃ t, exec (.ldNn 15 255) drawState = .next t) ∧ (∃ t, exec (.addNn 0 255) drawState = .next t) ∧
    (∃ t, exec (.ldVy 0 15) drawState = .next t) ∧ (∃ t, exec (.orVy 15 0) drawState = .next t) ∧
    (∃ t, exec (.andVy 0 1) drawState = .next t) ∧ (∃ t, exec (.xorVy 0 0) drawState = .next t) ∧
    (∃ t, exec (.ldVxDt 15) drawState = .next t) ∧ (∃ t, exec (.ldVxK 0) drawState = .next t) ∧
    (∃ t, exec (.ldVxK 0) { drawState with key := some 15 } = .next t) ∧
    (∃ t, exec (.load 0) drawState = .next t) ∧ (∃ t, exec (.load 15) drawState = .next t) :=
  ⟨⟨_, rfl⟩, ⟨_, rfl⟩, ⟨_, rfl⟩, ⟨_, rfl⟩, ⟨_, rfl⟩, ⟨_, rfl⟩, ⟨_, rfl⟩, ⟨_, rfl⟩, ⟨_, rfl⟩, ⟨_, rfl⟩, ⟨_, rfl⟩⟩

theorem witness_FlagWritersFrame :
    (∃ t, exec (.addVy 0 15) drawState = .next t) ∧ (∃ t, exec (.sub 15 0) drawState = .next t) ∧
    (∃ t, exec (.subn 0 0) drawState = .next t) ∧ (∃ t, exec (.shr 15 1) drawState = .next t) ∧
    (∃ t, exec (.shl 1 15) drawState = .next t) :=
  ⟨⟨_, rfl⟩, ⟨_, rfl⟩, ⟨_, rfl⟩, ⟨_, rfl⟩, ⟨_, rfl⟩⟩

theorem witness_IndexAndTimerWritersFrame :
    (∃ t, exec (.ldI 0xFFF) drawState = .next t) ∧ (∃ t, exec (.addI 15) drawState = .next t) ∧
    (∃ t, exec (.ldDtVx 0) drawState = .next t) ∧ (∃ t, exec (.ldStVx 0) drawState = .next t) :=
  ⟨⟨_, rfl⟩, ⟨_, rfl⟩, ⟨_, rfl⟩, ⟨_, rfl⟩⟩

/-- The last block that fits and the first that does not. -/
theorem witness_StoringFrame :
    (∃ t, exec (.bcd 0) { drawState with ireg := 4093 } = .next t) ∧
    (∃ t, exec (.bcd 0) { drawState with ireg := 4094 } = .next t) ∧
    (∃ t, exec (.store 15) { drawState with ireg := 4080 } = .next t) ∧
    (∃ t, exec (.store 15) { drawState with ireg := 4081 } = .next t) :=
  ⟨⟨_, rfl⟩, ⟨_, rfl⟩, ⟨_, rfl⟩, ⟨_, rfl⟩⟩

/-- A clear; a draw that is done, one that is refused, one on a cell that holds 2. -/
theorem witness_DisplayFrame :
    (∃ t, exec .cls drawState = .next t) ∧ (∃ t, exec (.drw 0 1 1) drawState = .next t) ∧
    (∃ t, exec (.drw 0 1 2) drawState = .next t) ∧
    (∃ t, exec (.drw 0 1 1) { drawState with fb := [(2047, 2)] } = .next t) :=
  ⟨⟨_, rfl⟩, ⟨_, rfl⟩, ⟨_, rfl⟩, ⟨_, rfl⟩⟩

/-! ### Control flow -/

theorem witness_CallPushesReturnAddress : drawState.pc = (0x200 : Word) + 2 ∧
    ({ drawState with pc := 0 } : State).pc = (0xFFFE : Word) + 2 := by decide

theorem witness_NestedCallsReturnInReverse :
    ([((0x202 : Word), (0x300 : Addr12))] : List (Word × Addr12)).length ≤ 16 ∧
    (List.replicate 16 ((0x202 : Word), (0x300 : Addr12))).length ≤ 16 := by decide

theorem witness_SeventeenthCallOverwritesOldest :
    (List.replicate 17 ((0x202 : Word), (0x300 : Addr12))).length = 17 := by decide

/-- Both cases: equal and not. -/
theorem witness_ImmediateSkips : drawState.pc = (0x200 : Word) + 2 ∧
    (drawState.readV 0).toNat = (63 : Byte).toNat ∧ (drawState.readV 0).toNat ≠ (62 : Byte).toNat := by decide

theorem witness_RegisterSkips : drawState.pc = (0x200 : Word) + 2 ∧
    (drawState.readV 2).toNat = (drawState.readV 3).toNat ∧ (drawState.readV 0).toNat ≠ (drawState.readV 1).toNat := by
  decide

/-- Each case of `KeySkips`: the key that `V[X]` names, another, a register above 15 in the same low nibble, none. -/
theorem witness_KeySkips : State.reset.pc = (0x1FE : Word) + 2 ∧ (regs 3 15 4 31).pc = (0x1FE : Word) + 2 ∧
    (∃ k, ({ regs 3 15 4 31 with key := some 15 } : State).key = some k ∧ k.toNat = ((regs 3 15 4 31).readV 3).toNat) ∧
    (∃ k, ({ regs 3 15 4 31 with key := some 15 } : State).key = some k ∧ k.toNat ≠ ((regs 3 15 4 31).readV 4).toNat) ∧
    State.reset.key = none :=
  ⟨by decide, by decide, ⟨15, by decide⟩, ⟨15, by decide⟩, rfl⟩

/-- A key down; none, in the middle of an instruction; none, before a step on `FX0A`, with events planned and without. -/
theorem witness_KeyWait :
    ({ drawState with key := some 15 } : State).key = some 15 ∧ (drawState.pc = (0x200 : Word) + 2 ∧ drawState.key = none) ∧
    (let s := at200 0xF50A { State.reset with dt := 1, schedule := [[.tick, .keyDown 1, .keyUp]] }
     s.fault = none ∧ s.deliver.key = none ∧ s.fetchInBounds = true ∧ decode s.fetchWord = .ok (.ldVxK 5)) ∧
    (at200 0xF50A State.reset).schedule = [] := by decide

/-! ### ALU -/

/-- A destination that is not the flag, and a sum with and without a carry. -/
theorem witness_AdditionAndCarry :
    (0 : Reg) ≠ 15 ∧ ((regs 0 255 1 1).readV 0).toNat + ((regs 0 255 1 1).readV 1).toNat = 256 ∧
    ((regs 0 254 1 1).readV 0).toNat + ((regs 0 254 1 1).readV 1).toNat = 255 := by decide

/-- A difference with and without a borrow. -/
theorem witness_SubtractionsAndNotBorrow :
    (0 : Reg) ≠ 15 ∧ ((regs 0 4 1 5).readV 0).toNat < ((regs 0 4 1 5).readV 1).toNat ∧
    ¬((regs 0 5 1 5).readV 0).toNat < ((regs 0 5 1 5).readV 1).toNat := by decide

/-- Both straps. -/
theorem witness_ShiftsByOne : (0 : Reg) ≠ 15 ∧
    (0xAA : Byte) = (regs 0 0xAA 1 7).readV (if (regs 0 0xAA 1 7).quirkShift then 0 else 1) ∧
    (7 : Byte) = ({ regs 0 0xAA 1 7 with quirkShift := false } : State).readV
      (if ({ regs 0 0xAA 1 7 with quirkShift := false } : State).quirkShift then 0 else 1) := by decide

/-! ### Memory transfer -/

theorem witness_BcdStoresDecimalDigits :
    ({ drawState with ireg := 4093 } : State).Inv ∧ ({ drawState with ireg := 4093 } : State).ireg.toNat + 2 < 4096 :=
  ⟨drawState_inv, by decide⟩

/-- The last block that fits, for 16 registers and for one. -/
theorem witness_StoreSavesRegisterBlock :
    ({ drawState with ireg := 4080 } : State).Inv ∧
    ({ drawState with ireg := 4080 } : State).ireg.toNat + (15 : Reg).toNat < 4096 ∧ (15 : Reg).toNat ≤ (15 : Reg).toNat ∧
    drawState.Inv ∧ drawState.ireg.toNat + (0 : Reg).toNat < 4096 ∧ (0 : Reg).toNat ≤ (0 : Reg).toNat :=
  ⟨drawState_inv, by decide, by decide, drawState_inv, by decide, by decide⟩

theorem witness_LoadRestoresRegisterBlock :
    ({ drawState with ireg := 4080 } : State).ireg.toNat + (15 : Reg).toNat < 4096 ∧ (15 : Reg).toNat ≤ (15 : Reg).toNat ∧
    drawState.ireg.toNat + (0 : Reg).toNat < 4096 ∧ (0 : Reg).toNat ≤ (0 : Reg).toNat := by decide

theorem witness_TransferOutsideMemoryIsRefused :
    drawState.pc = (0x200 : Word) + 2 ∧ ({ drawState with ireg := 4094 } : State).pc = (0x200 : Word) + 2 ∧
    4096 ≤ ({ drawState with ireg := 4094 } : State).ireg.toNat + 2 ∧
    4096 ≤ drawState.ireg.toNat + (1 : Reg).toNat := by decide

/-- Saved, then loaded after other registers were written. -/
theorem witness_StoreThenLoadRoundTrip :
    ∃ t, drawState.Inv ∧ drawState.ireg.toNat + (0 : Reg).toNat < 4096 ∧ exec (.store 0) drawState = .next t ∧
      (t.writeV 0 1).mem = t.mem ∧ (t.writeV 0 1).ireg = drawState.ireg :=
  ⟨_, drawState_inv, by decide, rfl, rfl, rfl⟩

/-- The stored word is the last of the block and of memory. -/
theorem witness_StoredWordIsFetchedNext :
    let s : State := { regs 0 0x12 1 0x34 with ireg := 4094, pc := 4094 }
    ∃ t, s.Inv ∧ s.ireg.toNat + (1 : Reg).toNat < 4096 ∧ 0 + 1 ≤ (1 : Reg).toNat ∧ exec (.store 1) s = .next t ∧
      t.fault = none ∧ t.schedule = [] ∧ t.pc.toNat = s.ireg.toNat + 0 ∧
      decode (wordOfBytes (s.readV (BitVec.ofNat 4 0)) (s.readV (BitVec.ofNat 4 (0 + 1)))) = .ok (.jp 0x234) :=
  ⟨_, ⟨by decide, by decide, by decide⟩, by decide, by decide, rfl, by decide, by decide, by decide, by decide⟩

/-! ### Display -/

/-- A lit bit on a lit cell at the corner, and a cell that the sprite does not cover. -/
theorem witness_DrawXorsSprite :
    drawState.Inv ∧ drawState.CellsAreBits ∧ drawState.ireg.toNat + (1 : Nibble).toNat ≤ 4096 ∧
    (∃ cx < 64, ∃ cy < 32, DrawCovers drawState 0 1 1 cx cy ∧ drawState.pixel cx cy = 1) ∧
    ¬DrawCovers drawState 0 1 1 0 0 :=
  ⟨drawState_inv, drawState_cells, by decide,
    ⟨63, by decide, 31, by decide, ⟨0, 0, by decide, by decide, by decide, by decide⟩, by decide⟩, by
      rintro ⟨r, c, _, _, _, h⟩
      have h' : (63 + c = 0 ∧ 31 + r = 0) := h
      omega⟩

theorem witness_DrawOutsideMemoryIsRefused : drawState.pc = (0x200 : Word) + 2 ∧ 4096 < drawState.ireg.toNat + (2 : Nibble).toNat := by decide

/-- The first draw clears the corner, so that the second lights it; on a dark buffer the first lights it. -/
theorem witness_DrawTwiceRestoresBuffer :
    ∃ t, drawState.Inv ∧ drawState.CellsAreBits ∧ drawState.ireg.toNat + (1 : Nibble).toNat ≤ 4096 ∧ (0 : Reg) ≠ 15 ∧
      (1 : Reg) ≠ 15 ∧ exec (.drw 0 1 1) drawState = .next t ∧
      DrawCovers { drawState with fb := [] } 0 1 1 63 31 ∧ ({ drawState with fb := [] } : State).pixel 63 31 = 0 :=
  ⟨_, drawState_inv, drawState_cells, by decide, by decide, by decide, rfl,
    ⟨0, 0, by decide, by decide, by decide, by decide⟩, by decide⟩

theorem witness_SpriteTouchesNoCellTwice : 63 < 64 ∧ 31 < 32 ∧ (List.replicate 15 (0xFF : Byte)).length ≤ 15 := by decide

/-! ### The host's moves -/

/-- Both ways to a state that has just been reset. -/
theorem witness_ResetValues :
    State.reset = State.construct true true openReset [] ∧
    ∃ u : State, u.fb = [(2047, 1)] ∧ drawState.hostReset false false openReset = u.hostReset false false openReset :=
  ⟨rfl, drawState, rfl, rfl⟩

/-- A program that fits and one that is cut. -/
theorem witness_LoadCopiesProgramVerbatim :
    State.reset = State.construct true true openReset [] ∧ 0 < min [(0x12 : Byte)].length 3584 ∧
    3583 < min (List.replicate 3585 (0x12 : Byte)).length 3584 ∧ ¬(0x200 ≤ 4096 ∧ 4096 < 0x200 + min 3585 3584) ∧
    ¬(0x200 ≤ 0x1FF ∧ 0x1FF < 0x200 + min 3585 3584) :=
  ⟨rfl, by decide, by rw [List.length_replicate]; decide, by decide, by decide⟩

theorem witness_SelfJumpIsAnEnd : (at200 0x1200 State.reset).fault = none ∧ (at200 0x1200 State.reset).AtSelfJump :=
  ⟨rfl, by decide, by decide, by decide⟩

end Sys2Proof.Tests
end

section
/-! SUPPORT. What the execution of an instruction leaves alone (`exec_frame`), which updates of the state it does not
notice (`exec_recast`), and from these the rules on the timers and on `quirk_shift` (10_state.md R20 to R22). -/

namespace Sys2Proof.Machine

open Sys2Proof.Claims

/-! ## What an instruction leaves alone -/

/-- The part of the state no instruction writes, and the two timers, each of which one instruction writes (R21). -/
structure ExecFrame (i : Instr) (s t : State) : Prop where
  dt : (∀ x, i ≠ .ldDtVx x) → t.dt = s.dt
  st : (∀ x, i ≠ .ldStVx x) → t.st = s.st
  key : t.key = s.key
  quirkShift : t.quirkShift = s.quirkShift
  clipping : t.clipping = s.clipping
  fault : t.fault = s.fault
  schedule : t.schedule = s.schedule

/-- The usual case: of all these fields, both timers included, none is written. -/
theorem ExecFrame.of_eq {i : Instr} {s t : State}
    (h : (t.dt, t.st, t.key, t.quirkShift, t.clipping, t.fault, t.schedule) =
      (s.dt, s.st, s.key, s.quirkShift, s.clipping, s.fault, s.schedule)) : ExecFrame i s t := by
  simp only [Prod.mk.injEq] at h
  obtain ⟨hdt, hst, hkey, hquirk, hclip, hfault, hsched⟩ := h
  exact ⟨fun _ => hdt, fun _ => hst, hkey, hquirk, hclip, hfault, hsched⟩

theorem ExecFrame.skipIf {i : Instr} (s : State) (c : Bool) : ExecFrame i s (s.skipIf c) :=
  .of_eq (by cases c <;> rfl)

theorem ExecFrame.blit_writeFlag {i : Instr} (s : State) (f : Bool) (js : List Nat) :
    ExecFrame i s (blit (s.writeFlag f) js) :=
  have h := blit_frame js (s.writeFlag f)
  ⟨fun _ => h.dt, fun _ => h.st, h.key, h.quirkShift, h.clipping, h.fault, h.schedule⟩

theorem ExecFrame.writeRegsFrom {i : Instr} (s : State) (k : Nat) (bs : List Byte) :
    ExecFrame i s (s.writeRegsFrom k bs) := by
  rw [writeRegsFrom_eq]; exact .of_eq rfl

/-- Every instruction answers a next state, and leaves in it what no instruction, or no other one, writes. -/
theorem exec_frame (i : Instr) (s : State) : ∃ t, exec i s = .next t ∧ ExecFrame i s t := by
  cases i
  case ldDtVx x => exact ⟨_, rfl, fun h => absurd rfl (h x), fun _ => rfl, rfl, rfl, rfl, rfl, rfl⟩
  case ldStVx x => exact ⟨_, rfl, fun _ => rfl, fun h => absurd rfl (h x), rfl, rfl, rfl, rfl, rfl⟩
  case seNn | sneNn | seVy | sneVy | skp | sknp => exact ⟨_, rfl, .skipIf s _⟩
  case ldVxK x =>
    simp only [exec, execLdVxK]
    split <;> exact ⟨_, rfl, .of_eq rfl⟩
  case drw x y n =>
    simp only [exec, execDrw]
    split
    · exact ⟨_, rfl, .blit_writeFlag s false _⟩
    · exact ⟨_, rfl, .of_eq rfl⟩
  case load x =>
    simp only [exec, execLoad]
    split
    · exact ⟨_, rfl, .writeRegsFrom s _ _⟩
    · exact ⟨_, rfl, .of_eq rfl⟩
  case bcd | store =>
    simp only [exec, execBcd, execStore]
    split <;> exact ⟨_, rfl, .of_eq rfl⟩
  all_goals exact ⟨_, rfl, .of_eq rfl⟩

theorem ExecFrame.of_exec {i : Instr} {s t : State} (h : exec i s = .next t) : ExecFrame i s t := by
  obtain ⟨t', h', hframe⟩ := exec_frame i s
  cases h.symm.trans h'
  exact hframe

/-! ## What an instruction does not notice -/

/-- An update of the four fields that no instruction, or only one or two, read: the sound timer (R20), the two straps
(R22, R23) and the DIAG port (R28), where the update has to respect that records are appended. A field that is not
named stays as it is. -/
structure Recast where
  st : Byte → Byte := id
  quirkShift : Bool → Bool := id
  clipping : Bool → Bool := id
  diag : List Report → List Report := id
  diag_append : ∀ rs r, diag (rs ++ [r]) = diag rs ++ [r] := by intros; rfl

namespace Recast

variable (r : Recast) (s : State)

/-- The updated state. -/
def apply : State :=
  { s with
    st := r.st s.st, quirkShift := r.quirkShift s.quirkShift, clipping := r.clipping s.clipping,
    diag := r.diag s.diag }

/-- Whether what is updated is nothing the instruction reads or overwrites: `FX18` overwrites the sound timer, the
shifts and `DXYN` read a strap each, and no other instruction does either. -/
def Unnoticed (r : Recast) : Instr → Prop
  | .ldStVx _ => r.st = id
  | .shr _ _ | .shl _ _ => r.quirkShift = id
  | .drw _ _ _ => r.clipping = id
  | _ => True

@[simp] theorem apply_mem : (r.apply s).mem = s.mem := rfl
@[simp] theorem apply_fb : (r.apply s).fb = s.fb := rfl
@[simp] theorem apply_free : (r.apply s).free = s.free := rfl
@[simp] theorem apply_key : (r.apply s).key = s.key := rfl
@[simp] theorem readV_apply (x : Reg) : (r.apply s).readV x = s.readV x := rfl
@[simp] theorem firstRegs_apply (n : Nat) : (r.apply s).firstRegs n = s.firstRegs n := rfl
@[simp] theorem effAddr_apply (k : Nat) : effAddr (r.apply s) k = effAddr s k := rfl
@[simp] theorem writeFlag_apply (f : Bool) : (r.apply s).writeFlag f = r.apply (s.writeFlag f) := rfl
@[simp] theorem storeBytes_apply (a : Nat) (bs : List Byte) :
    (r.apply s).storeBytes a bs = r.apply (s.storeBytes a bs) := rfl
@[simp] theorem writeCell_apply (j : Nat) (b : Byte) : (r.apply s).writeCell j b = r.apply (s.writeCell j b) := rfl

theorem skipIf_apply (c : Bool) : (r.apply s).skipIf c = r.apply (s.skipIf c) := by cases c <;> rfl

@[simp] theorem report_apply (k : ReportKind) (w : Word) : (r.apply s).report k w = r.apply (s.report k w) := by
  simp only [apply, State.report, State.instrAddr, r.diag_append]

theorem shiftSource_apply (h : r.quirkShift = id) (x y : Reg) :
    shiftSource (r.apply s) x y = shiftSource s x y := by
  simp only [shiftSource, apply, h, id]; rfl

@[simp] theorem writeRegsFrom_apply : ∀ (bs : List Byte) (k : Nat) (s : State),
    (r.apply s).writeRegsFrom k bs = r.apply (s.writeRegsFrom k bs)
  | [], _, _ => rfl
  | b :: bs, k, s => writeRegsFrom_apply bs (k + 1) (s.writeV (BitVec.ofNat 4 k) b)

theorem drawOnOtherCell_apply (j : Nat) : drawOnOtherCell (r.apply s) j = r.apply (drawOnOtherCell s j) := by
  by_cases h : Config.freeCollision s.free <;> simp only [drawOnOtherCell, apply_free, h] <;> rfl

theorem drawPixel_apply (j : Nat) : drawPixel (r.apply s) j = r.apply (drawPixel s j) := by
  simp only [drawPixel, apply_fb, writeFlag_apply, writeCell_apply, drawOnOtherCell_apply, ← apply_ite r.apply]

@[simp] theorem blit_apply (js : List Nat) : blit (r.apply s) js = r.apply (blit s js) :=
  List.foldl_hom r.apply (r.drawPixel_apply · ·)

end Recast

@[simp] theorem mapNext_next (f : State → State) (t : State) : mapNext f (.next t) = .next (f t) := rfl

/-- An instruction that does not notice an update commutes with it. -/
theorem exec_recast {r : Recast} {i : Instr} (h : r.Unnoticed i) (s : State) :
    exec i (r.apply s) = mapNext r.apply (exec i s) := by
  cases i
  case seNn | sneNn | seVy | sneVy | skp | sknp => exact congrArg Host.Outcome.next (r.skipIf_apply s _)
  case ldStVx x =>
    have hst (b : Byte) : r.st b = b := congrFun h b
    simp only [exec, execLdStVx, mapNext, Recast.apply, State.writeSt, hst]; rfl
  case shr x y => simp only [exec, execShr, r.shiftSource_apply s h]; rfl
  case shl x y => simp only [exec, execShl, r.shiftSource_apply s h]; rfl
  case ldVxK x =>
    simp only [exec, execLdVxK, Recast.apply_key]
    split <;> rfl
  case drw x y n =>
    have hclip (t : State) : (r.apply t).clipping = t.clipping := congrFun h t.clipping
    simp [exec, execDrw, hclip, apply_ite (mapNext r.apply)]
  case bcd | store | load =>
    simp [exec, execBcd, execStore, execLoad, refuseTransfer, apply_ite (mapNext r.apply)]
  all_goals rfl

/-! ## The step -/

/-- Everything a step that answers a next state can have done. -/
theorem step_next_cases {s t : State} (h : step s = .next t) :
    t = s.deliver.raiseFetchOutOfBounds ∨
    (∃ i, decode s.deliver.fetchWord = .ok i ∧ exec i s.deliver.advance = .next t) ∨
    t = s.deliver.advance.report .unrecognizedOpcode s.deliver.fetchWord := by
  obtain ⟨_, h'⟩ | ⟨_, _, h'⟩ | ⟨_, _, ⟨i, hi, h'⟩ | ⟨_, _, h'⟩⟩ := step_cases s <;> rw [h] at h'
  · cases h'
  · exact .inl (Host.Outcome.next.inj h')
  · exact .inr (.inl ⟨i, hi, h'.symm⟩)
  · exact .inr (.inr (Host.Outcome.next.inj h'))

/-! ## The sound timer (R20) -/

/-- What the sound timer held before an instruction shows in the sound timer after it, if anywhere: `FX18` overwrites
it, the others do not notice it. -/
theorem exec_writeSt (i : Instr) (s : State) (b : Byte) :
    ∃ b', exec i (s.writeSt b) = mapNext (·.writeSt b') (exec i s) := by
  cases i
  case ldStVx x => exact ⟨s.readV x, rfl⟩
  all_goals exact ⟨b, exec_recast (r := { st := fun _ => b }) (by trivial) s⟩

theorem hostEvents_writeSt : ∀ (es : List HostEvent) (s : State) (b : Byte),
    ∃ b', es.foldl State.hostEvent (s.writeSt b) = (es.foldl State.hostEvent s).writeSt b'
  | [], _, b => ⟨b, rfl⟩
  | .tick :: es, s, b => hostEvents_writeSt es s.tick (countDown b)
  | .keyDown k :: es, s, b => hostEvents_writeSt es (s.keyDown k) b
  | .keyUp :: es, s, b => hostEvents_writeSt es s.keyUp b

theorem deliver_writeSt (s : State) (b : Byte) : ∃ b', (s.writeSt b).deliver = s.deliver.writeSt b' := by
  simp only [State.deliver, writeSt_schedule]
  split
  · exact ⟨b, rfl⟩
  · exact hostEvents_writeSt _ { s with schedule := _ } b

theorem cycle_writeSt (s : State) (b : Byte) : ∃ b', cycle (s.writeSt b) = mapNext (·.writeSt b') (cycle s) := by
  change ∃ b', (if s.fetchInBounds then execWord s.fetchWord (s.advance.writeSt b)
    else .next (s.raiseFetchOutOfBounds.writeSt b)) = mapNext (·.writeSt b') (cycle s)
  unfold cycle execWord
  split_ifs
  · cases decode s.fetchWord with
    | ok i => exact exec_writeSt i s.advance b
    | error e => exact ⟨b, rfl⟩
  · exact ⟨b, rfl⟩

theorem step_writeSt (s : State) (b : Byte) : ∃ b', step (s.writeSt b) = mapNext (·.writeSt b') (step s) := by
  simp only [step, writeSt_fault]
  split
  · exact ⟨b, rfl⟩
  · obtain ⟨b', h⟩ := deliver_writeSt s b
    rw [h]
    exact cycle_writeSt s.deliver b'

/-- Settles O18: of two states that differ in `st` alone, a step, by the delivery and the cycle, makes two that differ
in `st` at most. -/
theorem soundTimerHasNoEffect : Obligations.SoundTimerHasNoEffect := by
  refine ⟨fun i s t h hst => ?_, fun s e hst => ?_, fun s t b h => ?_⟩
  · by_contra hi
    exact hst ((ExecFrame.of_exec h).st fun x hx => hi ⟨x, hx⟩)
  · cases e with
    | tick => rfl
    | keyDown | keyUp => exact absurd rfl hst
  · obtain ⟨b', h'⟩ := step_writeSt s b
    exact ⟨t.writeSt b', by rw [h] at h'; exact h', rfl⟩

/-! ## The timers (R21) -/

/-- Settles O16: before the cycle only the planned events, in it only `FX15` and `FX18` write a timer. -/
theorem timersChangeOnlyByTheirInstructions : Obligations.TimersChangeOnlyByTheirInstructions := by
  intro s t h
  obtain rfl | ⟨i, hi, hexec⟩ | rfl := step_next_cases h
  · exact ⟨fun _ => rfl, fun _ => rfl⟩
  · have hframe := ExecFrame.of_exec hexec
    rw [hi]
    exact ⟨fun hne => hframe.dt fun x hx => hne x (congrArg _ hx),
      fun hne => hframe.st fun x hx => hne x (congrArg _ hx)⟩
  · exact ⟨fun _ => rfl, fun _ => rfl⟩

/-! ## The strap `quirk_shift` (R22) -/

theorem step_quirkShift {s t : State} (h : step s = .next t) : t.quirkShift = s.quirkShift := by
  have hdeliver := (deliver_frame s).quirkShift
  obtain rfl | ⟨i, _, hexec⟩ | rfl := step_next_cases h
  · exact hdeliver
  · exact (ExecFrame.of_exec hexec).quirkShift.trans hdeliver
  · exact hdeliver

theorem unnoticed_quirkShift {i : Instr} (h : ∀ x y, i ≠ .shr x y ∧ i ≠ .shl x y) (f : Bool → Bool) :
    Recast.Unnoticed { quirkShift := f } i := by
  cases i
  case shr x y => exact absurd rfl (h x y).1
  case shl x y => exact absurd rfl (h x y).2
  case ldStVx | drw => rfl
  all_goals trivial

theorem shiftSource_of_quirkShift {s : State} (h : s.quirkShift = true) (x y : Reg) :
    shiftSource s x y = s.readV x := if_pos h

theorem shiftSource_of_not_quirkShift {s : State} (h : s.quirkShift = false) (x y : Reg) :
    shiftSource s x y = s.readV y := by rw [shiftSource, h]; rfl

/-- Where both operands are one register, the strap makes no difference. -/
@[simp] theorem shiftSource_self (s : State) (x : Reg) : shiftSource s x x = s.readV x := ite_self _

@[simp] theorem writeResultAndFlag_writeV (s : State) (x : Reg) (a b : Byte) (f : Bool) :
    (s.writeV x a).writeResultAndFlag x b f = s.writeResultAndFlag x b f := by
  simp only [State.writeResultAndFlag, State.writeV, Vector.set_set]

/-- Settles O14: the source is all that a shift takes from the strap. -/
theorem quirkShiftSelectsShiftSource : Obligations.QuirkShiftSelectsShiftSource := by
  refine ⟨fun s t => step_quirkShift, fun s e => (hostEvent_frame s e).quirkShift, fun i s b h => ?_,
    fun x y s h => ?_, fun x y s h => ?_⟩
  · exact exec_recast (unnoticed_quirkShift h fun _ => b) s
  · simp [exec, execShr, execShl, shiftSource_of_quirkShift h]
  · simp [exec, execShr, execShl, shiftSource_of_not_quirkShift h]

end Sys2Proof.Machine
end

section
/-! SUPPORT. The decoder against the opcode map (30_encoding.md R64, R65): which bits of a word decide the row it
decodes to (`decodeRow_of_readBits_eq`), that the mask of a row keeps them (`mask_keeps_readBits`), and that the encoder
writes back what the decoder reads (`encode_of_decode`). -/

namespace Sys2Proof.Laws.EncodesItsRow

theorem of_instr (i : Instr) : Statement i := by
  cases i
  exacts [cls, ret, jp _, call _, seNn _ _, sneNn _ _, seVy _ _ _, ldNn _ _, addNn _ _, ldVy _ _, orVy _ _, andVy _ _,
    xorVy _ _, addVy _ _, sub _ _, shr _ _, subn _ _, shl _ _, sneVy _ _ _, ldI _, jpV0 _, drw _ _ _, skp _, sknp _,
    ldVxDt _, ldVxK _, ldDtVx _, ldStVx _, addI _, bcd _, store _, load _]

end Sys2Proof.Laws.EncodesItsRow

namespace Sys2Proof

/-! ## What the decoder reads, the encoder writes back -/

section
variable {w : Word} {op : Nibble}

theorem formatA_nnnField (hop : (opField w).toNat = op.toNat) : formatA op (nnnField w) = w := by
  rw [← BitVec.eq_of_toNat_eq hop, formatA_fields]

theorem formatI_xField_nnField (hop : (opField w).toNat = op.toNat) : formatI op (xField w) (nnField w) = w := by
  rw [← BitVec.eq_of_toNat_eq hop, formatI_fields]

theorem formatI_xField {nn : Byte} (hop : (opField w).toNat = op.toNat) (hnn : (nnField w).toNat = nn.toNat) :
    formatI op (xField w) nn = w := by
  rw [← BitVec.eq_of_toNat_eq hnn, formatI_xField_nnField hop]

theorem formatR_fields_of_opField (hop : (opField w).toNat = op.toNat) :
    formatR op (xField w) (yField w) (nField w) = w := by
  rw [← BitVec.eq_of_toNat_eq hop, formatR_fields]

theorem formatR_xField_yField {n : Nibble} (hop : (opField w).toNat = op.toNat) (hn : (nField w).toNat = n.toNat) :
    formatR op (xField w) (yField w) n = w := by
  rw [← BitVec.eq_of_toNat_eq hn, formatR_fields_of_opField hop]

end

section
variable {w : Word} {i : Instr}

theorem encode_of_decodeFamily8 (hop : (opField w).toNat = 0x8) (h : decodeFamily8 w = .ok i) : encode i = w := by
  unfold decodeFamily8 at h
  split at h <;> cases h
  all_goals exact formatR_xField_yField hop ‹_›

theorem encode_of_decodeFamilyE (hop : (opField w).toNat = 0xE) (h : decodeFamilyE w = .ok i) : encode i = w := by
  unfold decodeFamilyE at h
  split at h <;> cases h
  all_goals exact formatI_xField hop ‹_›

theorem encode_of_decodeFamilyF (hop : (opField w).toNat = 0xF) (h : decodeFamilyF w = .ok i) : encode i = w := by
  unfold decodeFamilyF at h
  split at h <;> cases h
  all_goals exact formatI_xField hop ‹_›

theorem encode_of_decodeByFamily (h : decodeByFamily w = .ok i) : encode i = w := by
  unfold decodeByFamily at h
  split at h
  case h_9 hop => exact encode_of_decodeFamily8 hop h
  case h_15 hop => exact encode_of_decodeFamilyE hop h
  case h_16 =>
    simp only [imp_false] at *
    exact encode_of_decodeFamilyF (by have := (opField w).isLt; omega) h
  all_goals cases h
  case h_2 hop | h_3 hop | h_11 hop | h_12 hop => exact formatA_nnnField hop
  case h_4 hop | h_5 hop | h_7 hop | h_8 hop => exact formatI_xField_nnField hop
  case h_6 hop | h_10 hop | h_14 hop => exact formatR_fields_of_opField hop

theorem encode_of_decode (h : decode w = .ok i) : encode i = w := by
  unfold decode at h
  split_ifs at h with hcls hret
  · cases h; exact hcls.symm
  · cases h; exact hret.symm
  · exact encode_of_decodeByFamily h

end

/-! ## The bits that decide the row -/

/-- The row a word decodes to, by its mnemonic. -/
def decodeRow (w : Word) : Except Unrecognized String := (decode w).map Instr.mnemonic

theorem decodeRow_eq_ok {w : Word} {m : String} : decodeRow w = .ok m ↔ ∃ i, decode w = .ok i ∧ i.mnemonic = m := by
  unfold decodeRow
  cases decode w <;> simp [Except.map]

section
variable {w v : Word}

theorem decodeFamily8_row_eq (h : nField w = nField v) :
    (decodeFamily8 w).map Instr.mnemonic = (decodeFamily8 v).map Instr.mnemonic := by
  unfold decodeFamily8
  rw [h]
  split <;> rfl

theorem decodeFamilyE_row_eq (h : nnField w = nnField v) :
    (decodeFamilyE w).map Instr.mnemonic = (decodeFamilyE v).map Instr.mnemonic := by
  unfold decodeFamilyE
  rw [h]
  split <;> rfl

theorem decodeFamilyF_row_eq (h : nnField w = nnField v) :
    (decodeFamilyF w).map Instr.mnemonic = (decodeFamilyF v).map Instr.mnemonic := by
  unfold decodeFamilyF
  rw [h]
  split <;> rfl

/-- The family decides the row, with the low nibble in family 8 (R66) and the low byte in families E and F (R67). -/
theorem decodeByFamily_row_eq (hop : opField w = opField v) (h8 : opField v = 0x8 → nField w = nField v)
    (hEF : 0xE ≤ opField v → nnField w = nnField v) :
    (decodeByFamily w).map Instr.mnemonic = (decodeByFamily v).map Instr.mnemonic := by
  unfold decodeByFamily
  rw [hop]
  split
  case h_9 hv => exact decodeFamily8_row_eq (h8 (BitVec.eq_of_toNat_eq hv))
  case h_15 hv => exact decodeFamilyE_row_eq (hEF (by bv_omega))
  case h_16 =>
    simp only [imp_false] at *
    exact decodeFamilyF_row_eq (hEF (by bv_omega))
  all_goals rfl

/-- Outside family 0 there is no whole word to match. -/
theorem decode_of_opField_ne_zero (h : opField w ≠ 0) : decode w = decodeByFamily w := by
  unfold decode
  rw [if_neg, if_neg] <;> rintro rfl <;> exact h (by decide)

theorem decodeRow_of_readBits_eq (h0 : opField v ≠ 0) (hop : opField w = opField v)
    (h8 : opField v = 0x8 → nField w = nField v) (hEF : 0xE ≤ opField v → nnField w = nnField v) :
    decodeRow w = decodeRow v := by
  unfold decodeRow
  rw [decode_of_opField_ne_zero h0, decode_of_opField_ne_zero (hop ▸ h0), decodeByFamily_row_eq hop h8 hEF]

end

/-! ## The rows of the opcode map -/

/-- The mask of a row keeps the whole word, or every bit that decides the row of a word of its family. -/
theorem mask_keeps_readBits : ∀ r ∈ opcodeRows, r.mask = BitVec.allOnes 16 ∨
    opField r.val ≠ 0 ∧ opField r.mask = BitVec.allOnes 4 ∧ (opField r.val = 0x8 → nField r.mask = BitVec.allOnes 4) ∧
      (0xE ≤ opField r.val → nnField r.mask = BitVec.allOnes 8) := by decide

theorem decodeRow_val : ∀ r ∈ opcodeRows, decodeRow r.val = .ok r.mnemonic := by decide

/-- A field that a mask keeps whole is the field of the masked word. -/
theorem extractLsb'_eq_of_and_eq {w m v : Word} {k n : Nat} (h : w &&& m = v)
    (hm : m.extractLsb' k n = BitVec.allOnes n) : w.extractLsb' k n = v.extractLsb' k n := by
  rw [← h, BitVec.extractLsb'_and, hm, BitVec.and_allOnes]

theorem decodeRow_of_selects {r : OpRow} (hr : r ∈ opcodeRows) {w : Word} (h : w &&& r.mask = r.val) :
    decodeRow w = .ok r.mnemonic := by
  rw [← decodeRow_val r hr]
  obtain hall | ⟨h0, hop, h8, hEF⟩ := mask_keeps_readBits r hr
  · rw [← h, hall, BitVec.and_allOnes]
  · exact decodeRow_of_readBits_eq h0 (extractLsb'_eq_of_and_eq h hop)
      (fun hv => extractLsb'_eq_of_and_eq h (h8 hv)) (fun hv => extractLsb'_eq_of_and_eq h (hEF hv))

theorem exists_row_of_decode {w : Word} {i : Instr} (h : decode w = .ok i) :
    ∃ r ∈ opcodeRows, w &&& r.mask = r.val ∧ r.mnemonic = i.mnemonic := by
  obtain ⟨r, hr, hm, hsel⟩ := Laws.EncodesItsRow.of_instr i
  rw [encode_of_decode h] at hsel
  exact ⟨r, hr, beq_iff_eq.mp hsel, hm⟩

theorem opcodeRows_mnemonic_inj : ∀ r ∈ opcodeRows, ∀ r' ∈ opcodeRows, r.mnemonic = r'.mnemonic → r = r' := by decide

/-- Settles O3: the mask of a row keeps the bits the decoder reads, so a word decodes to the row it selects, and to one
only; a recognized word is the encoding of its instruction, which selects the instruction's row. -/
theorem decoderFollowsOpcodeMap : Obligations.DecoderFollowsOpcodeMap := by
  refine ⟨rfl, fun w => ⟨fun r hr h => decodeRow_eq_ok.mp (decodeRow_of_selects hr h), fun i => exists_row_of_decode,
    fun r hr r' hr' h h' => opcodeRows_mnemonic_inj r hr r' hr' ?_⟩⟩
  exact Except.ok.inj ((decodeRow_of_selects hr h).symm.trans (decodeRow_of_selects hr' h'))

end Sys2Proof
end

section
/-! SUPPORT. The control-flow unit (41_control_flow.md): where jumps, calls, returns and skips lead, and the wait for a
key (R100), which as a whole step leaves the state as the host's planned events left it (`step_ldVxK_of_no_key`). -/

namespace Sys2Proof.Machine

open Sys2Proof.Claims

/-! ## Jumps, calls and returns (R90, R92, R93) -/

@[simp] theorem toNat_zextAddr (nnn : Addr12) : (zextAddr nnn).toNat = nnn.toNat :=
  BitVec.toNat_setWidth_of_le (by decide)

/-- Settles O27: the 12-bit target loses nothing when it is zero-extended into `pc`. -/
theorem jumpSetsPcExactly : Obligations.JumpSetsPcExactly :=
  fun nnn s => ⟨s.jump (zextAddr nnn), rfl, toNat_zextAddr nnn, rfl, rfl, rfl⟩

/-- Settles O29: what is pushed is the advanced `pc`, and the jump after it leaves the stack alone. -/
theorem callPushesReturnAddress : Obligations.CallPushesReturnAddress := by
  intro nnn s p hpc
  refine ⟨(s.push s.pc).jump (zextAddr nnn), rfl, ?_, BitVec.toNat_add .., toNat_zextAddr nnn, rfl, rfl, rfl⟩
  calc ((s.push s.pc).jump (zextAddr nnn)).readStack s.sp
      _ = (s.push s.pc).readStack s.sp := readStack_congr (jump_stack ..) s.sp
      _ = s.pc := by rw [readStack_push, if_pos rfl]
      _ = p + 2 := hpc

/-- Settles O30: of a return, only the move of `sp`, a nibble, needs an argument: one back is 15 on. -/
theorem returnPopsIntoPc : Obligations.ReturnPopsIntoPc := by
  intro s
  have hsp : s.popToPc.sp.toNat = (s.sp.toNat + 15) % 16 := by
    rw [popToPc_sp, BitVec.toNat_sub, Nat.add_comm]; rfl
  exact ⟨s.popToPc, rfl, hsp, rfl, readStack_congr (popToPc_stack s), rfl, rfl, rfl⟩

/-! ## Skips (R94, R95) -/

/-- A conditional skip of the instruction at `p`: to `p + 4` or on to `p + 2`. -/
theorem skipIf_pc_of_pc {s : State} {p : Word} (hpc : s.pc = p + 2) (c : Bool) :
    (s.skipIf c).pc = if c then p + 4 else p + 2 := by
  rw [skipIf_pc, hpc, BitVec.add_assoc]; rfl

theorem noFlag_skipIf (s : State) (c : Bool) : NoFlag s (s.skipIf c) := readV_congr (skipIf_v s c) 15

theorem noException_skipIf (s : State) (c : Bool) : NoException s (s.skipIf c) := ⟨skipIf_diag s c, skipIf_fault s c⟩

/-- Settles O33: the two skips compare `V[X]` with `NN` and skip in opposite cases. -/
theorem immediateSkips : Obligations.ImmediateSkips := by
  intro x nn s p hpc
  refine ⟨⟨s.skipIf (s.readV x == nn), rfl, ?_, noFlag_skipIf .., noException_skipIf ..⟩,
    ⟨s.skipIf (s.readV x != nn), rfl, ?_, noFlag_skipIf .., noException_skipIf ..⟩⟩
  · rw [skipIf_pc_of_pc hpc]; simp [BitVec.toNat_inj]
  · rw [skipIf_pc_of_pc hpc]; simp [BitVec.toNat_inj]

/-! ## A whole step on a recognized word -/

@[simp] theorem deliver_fetchInBounds (s : State) : s.deliver.fetchInBounds = s.fetchInBounds := by
  rw [State.fetchInBounds, (deliver_frame s).pc, State.fetchInBounds]

@[simp] theorem deliver_fetchWord (s : State) : s.deliver.fetchWord = s.fetchWord := by
  rw [State.fetchWord, (deliver_frame s).pc, (deliver_frame s).mem, State.fetchWord]

/-- Where a word can be fetched and decodes, a step executes it on the advanced state, after the planned events. -/
theorem step_of_decode {s : State} {i : Instr} (hfault : s.fault = none) (hbound : s.fetchInBounds = true)
    (hi : decode s.fetchWord = .ok i) : step s = exec i s.deliver.advance := by
  simp [step, cycle, execWord, hfault, hbound, hi]

/-! ## The wait for a key (R100) -/

/-- Going back after the fetch undoes its advance. -/
@[simp] theorem rewind_advance (s : State) : s.advance.rewind = s := by
  simp [State.rewind, State.advance]

theorem rewind_eq_of_pc {s : State} {p : Word} (hpc : s.pc = p + 2) : s.rewind = { s with pc := p } := by
  simp [State.rewind, hpc]

theorem exec_ldVxK_of_key (x : Reg) {s : State} {k : Nibble} (hkey : s.key = some k) :
    exec (.ldVxK x) s = .next (s.writeV x (zextKey k)) := by
  simp [exec, execLdVxK, hkey]

theorem exec_ldVxK_of_no_key (x : Reg) {s : State} (hkey : s.key = none) : exec (.ldVxK x) s = .next s.rewind := by
  simp [exec, execLdVxK, hkey]

/-- Going back undoes the advance of the same step, so a step that waits is complete and leaves only what the planned
events did. -/
theorem step_ldVxK_of_no_key {x : Reg} {s : State} (hfault : s.fault = none) (hbound : s.fetchInBounds = true)
    (hi : decode s.fetchWord = .ok (.ldVxK x)) (hkey : s.deliver.key = none) : step s = .next s.deliver := by
  rw [step_of_decode hfault hbound hi, exec_ldVxK_of_no_key x (s := s.deliver.advance) hkey, rewind_advance]

@[simp] theorem toNat_zextKey (k : Nibble) : (zextKey k).toNat = k.toNat :=
  BitVec.toNat_setWidth_of_le (by decide)

/-- Settles O36: with a key down one register write, with none a return to `p`, which in a whole step undoes the
fetch's advance. -/
theorem keyWait : Obligations.KeyWait := by
  refine ⟨fun x s k hkey => ?_, fun x s p hpc hkey => ?_, fun x s hfault hkey hbound hi => ?_⟩
  · refine ⟨_, exec_ldVxK_of_key x hkey, by simp, rfl, hkey, fun hx => ?_, rfl, rfl⟩
    exact readV_writeV_ne s hx.symm (zextKey k)
  · rw [exec_ldVxK_of_no_key x hkey, rewind_eq_of_pc hpc]
  · have hstep := step_ldVxK_of_no_key hfault hbound hi hkey
    refine ⟨hstep, fun hschedule => ?_⟩
    rw [hstep, deliver_of_no_schedule hschedule]

end Sys2Proof.Machine
end

section
/-! SUPPORT. The arithmetic and logic unit (42_alu.md). A register write touches no other register, no record and no
fatal mark, so of copy, OR, AND and XOR only the written value needs saying. -/

namespace Sys2Proof.Machine

open Sys2Proof.Claims

/-! ## What a register write leaves alone -/

theorem noFlagBut_writeV (x : Reg) (s : State) (b : Byte) : NoFlagBut x s (s.writeV x b) :=
  fun hx => readV_writeV_ne s hx.symm b

theorem noException_writeV (x : Reg) (s : State) (b : Byte) : NoException s (s.writeV x b) :=
  ⟨writeV_diag s x b, writeV_fault s x b⟩

/-! ## Copy, OR, AND, XOR (R111 to R114) -/

/-- Settles O37: each of the four is one register write; what is read back is the written value, and its bits are the
bits of the operands joined by the operation. -/
theorem copyAndLogicResults : Obligations.CopyAndLogicResults := by
  intro x y s
  have hframe (b : Byte) : NoFlagBut x s (s.writeV x b) ∧ NoException s (s.writeV x b) :=
    ⟨noFlagBut_writeV x s b, noException_writeV x s b⟩
  refine ⟨⟨_, rfl, readV_writeV_self .., hframe _⟩, ⟨_, rfl, fun b _ => ?or, hframe _⟩,
    ⟨_, rfl, fun b _ => ?and, hframe _⟩, ⟨_, rfl, fun b _ => ?xor, hframe _⟩⟩
  case or => rw [readV_writeV_self, BitVec.getLsbD_or]
  case and => rw [readV_writeV_self, BitVec.getLsbD_and]
  case xor => rw [readV_writeV_self, BitVec.getLsbD_xor]

end Sys2Proof.Machine
end

section
/-! SUPPORT. The index sum of the memory-transfer unit (43_memory_transfer.md R134). A write of `I` touches no
register, no record and no fatal mark, so of `FX1E` only the value of `I` needs saying. -/

namespace Sys2Proof.Machine

open Sys2Proof.Claims

/-- The 16 bits of `I` are the only bound on the sum: it is not reduced to the memory size (R134). -/
@[simp] theorem toNat_indexSum (a : Word) (b : Byte) : (indexSum a b).toNat = (a.toNat + b.toNat) % 65536 :=
  BitVec.toNat_ofNat ..

theorem noException_writeI (s : State) (a : Word) : NoException s (s.writeI a) := ⟨writeI_diag s a, writeI_fault s a⟩

/-- Settles O44: `FX1E` is one write of `I`, which holds the index sum and leaves the register file alone. -/
theorem indexAddition : Obligations.IndexAddition := by
  intro x s
  have hsum : (s.writeI (indexSum s.ireg (s.readV x))).ireg.toNat = (s.ireg.toNat + (s.readV x).toNat) % 65536 := by
    rw [writeI_ireg, toNat_indexSum]
  exact ⟨s.writeI (indexSum s.ireg (s.readV x)), rfl, hsum, readV_congr (writeI_v s _), noException_writeI s _⟩

end Sys2Proof.Machine
end

section
/-! SUPPORT. The clear of the display unit (44_display.md R140). It replaces the frame buffer by the empty store, so
what a cell held before does not matter. -/

namespace Sys2Proof.Machine

open Sys2Proof.Claims

/-- The empty store lists nothing, so each of its addresses reads as an unlisted one. -/
@[simp] theorem Memory.read_nil (a : Nat) : Memory.read [] a = Memory.unlisted := rfl

/-- A frame buffer that lists no cell is dark. -/
theorem pixel_eq_zero_of_fb_nil {s : State} (h : s.fb = []) (cx cy : Nat) : s.pixel cx cy = 0 := by
  rw [State.pixel, h, Memory.read_nil, Memory.unlisted]

/-- The whole effect of `00E0`: the frame buffer is the empty store, and no other field is written. -/
theorem exec_cls (s : State) : exec .cls s = .next { s with fb := [] } := rfl

/-- Settles O51: the next state differs from `s` in the frame buffer only, which lists no cell in it and so reads 0 at
every coordinate. -/
theorem clearZeroesEveryCell : Obligations.ClearZeroesEveryCell := by
  intro s
  refine ⟨{ s with fb := [] }, exec_cls s, ?cells, ?noFlag, ?noException⟩
  case cells => exact fun cx cy _ _ => pixel_eq_zero_of_fb_nil rfl cx cy
  case noFlag => exact readV_congr rfl 15
  case noException => exact ⟨rfl, rfl⟩

end Sys2Proof.Machine
end

section
/-! SUPPORT. The immediate loads (45_immediate_loads.md R150, R152): one write of a register and one write of `I`. -/

namespace Sys2Proof.Machine

open Sys2Proof.Claims

/-- The whole effect of `6XNN`: one register write. -/
theorem exec_ldNn (x : Reg) (nn : Byte) (s : State) : exec (.ldNn x nn) s = .next (s.writeV x nn) := rfl

/-- The whole effect of `ANNN`: one write of `I`, with the 12 bits zero-extended. -/
theorem exec_ldI (nnn : Addr12) (s : State) : exec (.ldI nnn) s = .next (s.writeI (zextAddr nnn)) := rfl

theorem noFlag_writeI (s : State) (a : Word) : NoFlag s (s.writeI a) := readV_congr (writeI_v s a) 15

/-- Settles O41: `6XNN` leaves `NN` in the register it writes, `ANNN` leaves in `I` the 12 bits it extends; neither
write touches another register, a record or the fatal mark. -/
theorem immediateLoads : Obligations.ImmediateLoads := by
  constructor
  · intro x nn s
    exact ⟨s.writeV x nn, exec_ldNn x nn s, readV_writeV_self .., noFlagBut_writeV x s nn, noException_writeV x s nn⟩
  · intro nnn s
    have hindex : (s.writeI (zextAddr nnn)).ireg.toNat = nnn.toNat := by rw [writeI_ireg, toNat_zextAddr]
    exact ⟨s.writeI (zextAddr nnn), exec_ldI nnn s, hindex, noFlag_writeI s _, noException_writeI s _⟩

end Sys2Proof.Machine
end

section
/-! SUPPORT. LOAD (70_reset_and_hazards.md R192). It is one block write of the stream's first 3584 bytes, which end at
the last byte of memory, so the rule on block writes says what every address reads afterwards. -/

namespace Sys2Proof.Machine

/-- The truncated stream fits between the load address and the end of memory (R193). -/
theorem progBase_add_length_take_le (bytes : List Byte) :
    Config.progBase + (bytes.take Config.progMax).length ≤ Config.memSize := by
  have htake : (bytes.take Config.progMax).length ≤ Config.progMax := List.length_take_le ..
  have hfit : Config.progBase + Config.progMax = Config.memSize := rfl
  omega

/-- Below the truncation LOAD takes the stream's own bytes. -/
theorem getD_take_of_lt {bytes : List Byte} {n k : Nat} (hk : k < n) : (bytes.take n).getD k 0 = bytes.getD k 0 := by
  rw [List.getD_eq_getElem?_getD, List.getElem?_take_of_lt hk, List.getD_eq_getElem?_getD]

/-- What LOAD leaves at each address: the stream in the load block, every other address as it was. -/
theorem read_load {s : State} (hs : s.mem.wf Config.memSize = true) (bytes : List Byte) (a : Nat) :
    (s.load bytes).mem.read a =
      if 0x200 ≤ a ∧ a < 0x200 + min bytes.length 3584 then bytes.getD (a - 0x200) 0 else s.mem.read a := by
  have hlength : (bytes.take Config.progMax).length = min bytes.length 3584 := by
    rw [List.length_take, Nat.min_comm, Config.progMax]
  rw [State.load, storeBytes_mem, Memory.read_writeBytes (progBase_add_length_take_le bytes) hs, hlength,
    Config.progBase]
  split
  case isTrue h => exact getD_take_of_lt (by rw [Config.progMax]; omega)
  case isFalse => rfl

/-- LOAD writes memory and nothing else. -/
theorem load_frame (bytes : List Byte) (s : State) : s.load bytes = { s with mem := (s.load bytes).mem } := rfl

/-- Settles O58: RESET leaves the empty store, so outside the block that LOAD writes every address reads 0. -/
theorem loadCopiesProgramVerbatim : Obligations.LoadCopiesProgramVerbatim := by
  rintro qs cl o fb bytes s t rfl rfl
  have hread := read_load (s := State.construct qs cl o fb) rfl bytes
  refine ⟨fun k hk => ?copied, fun a ha => ?untouched, load_frame bytes _⟩
  case copied => rw [hread, if_pos (by omega), Nat.add_sub_cancel_left]
  case untouched => rw [hread, if_neg ha, construct_mem, Memory.read_nil, Memory.unlisted]

end Sys2Proof.Machine
end

section
/-! SUPPORT. The encoder and the decoder against each other (30_encoding.md R60 to R65): the fields the encoder writes
are the fields the decoder reads. The words no instruction claims (R68): each family's decoder rejects exactly what its
table leaves out. -/

namespace Sys2Proof

/-! ## What the encoder writes, the decoder reads back -/

section
variable (op : Nibble) (x y : Reg) (n : Nibble) (nn : Byte) (nnn : Addr12)

theorem decode_formatA (h : op ≠ 0) : decode (formatA op nnn) = decodeByFamily (formatA op nnn) :=
  decode_of_opField_ne_zero (by rwa [opField_formatA])

theorem decode_formatI (h : op ≠ 0) : decode (formatI op x nn) = decodeByFamily (formatI op x nn) :=
  decode_of_opField_ne_zero (by rwa [opField_formatI])

theorem decode_formatR (h : op ≠ 0) : decode (formatR op x y n) = decodeByFamily (formatR op x y n) :=
  decode_of_opField_ne_zero (by rwa [opField_formatR])

end

theorem decode_encode (i : Instr) : decode (encode i) = .ok i := by
  cases i
  case cls | ret => rfl
  case jp | call | ldI | jpV0 => exact (decode_formatA _ _ (by decide)).trans (by simp [decodeByFamily])
  case seNn | sneNn | ldNn | addNn => exact (decode_formatI _ _ _ (by decide)).trans (by simp [decodeByFamily])
  case skp | sknp => exact (decode_formatI _ _ _ (by decide)).trans (by simp [decodeByFamily, decodeFamilyE])
  case ldVxDt | ldVxK | ldDtVx | ldStVx | addI | bcd | store | load =>
    exact (decode_formatI _ _ _ (by decide)).trans (by simp [decodeByFamily, decodeFamilyF])
  case seVy | sneVy | drw => exact (decode_formatR _ _ _ _ (by decide)).trans (by simp [decodeByFamily])
  case ldVy | orVy | andVy | xorVy | addVy | sub | shr | subn | shl =>
    exact (decode_formatR _ _ _ _ (by decide)).trans (by simp [decodeByFamily, decodeFamily8])

theorem decodeBytes_encodeBytes_append (i : Instr) (rest : List Byte) :
    decodeBytes (encodeBytes i ++ rest) = .ok (i, rest) := by
  simp [encodeBytes, decodeBytes, decode_encode]

/-- Settles O1: outside family 0 a word goes to the decoder of its family, which reads the fields the encoder wrote;
the two bytes are joined to the word again. -/
theorem decodeOfEncodeIsTheInstruction : Obligations.DecodeOfEncodeIsTheInstruction :=
  fun i => ⟨decode_encode i, decodeBytes_encodeBytes_append i⟩

/-- Settles O2: the fields the decoder reads, with the family and sub-opcode it matched, are the whole word. -/
theorem encodeOfDecodeIsTheWord : Obligations.EncodeOfDecodeIsTheWord := fun _ _ => encode_of_decode

/-- Settles O5: eight closed words. -/
theorem writtenOutWordsDecode : Obligations.WrittenOutWordsDecode := by
  unfold Obligations.WrittenOutWordsDecode
  decide

/-! ## The unrecognized words -/

section
variable (w : Word)

theorem toNat_opField : (opField w).toNat = w.toNat / 4096 := by
  have := w.isLt
  rw [opField, BitVec.extractLsb'_toNat, Nat.shiftRight_eq_div_pow]
  omega

theorem toNat_nField : (nField w).toNat = w.toNat % 16 := by
  rw [nField, BitVec.extractLsb'_toNat, Nat.shiftRight_zero]

theorem toNat_nnField : (nnField w).toNat = w.toNat % 256 := by
  rw [nnField, BitVec.extractLsb'_toNat, Nat.shiftRight_zero]

end

section
variable {w : Word} {e : Unrecognized}

theorem decodeFamily8_eq_error_iff : decodeFamily8 w = .error e ↔
    e = .family8SubOpcode ∧ w.toNat % 16 ∈ [0x8, 0x9, 0xA, 0xB, 0xC, 0xD, 0xF] := by
  have hlt : w.toNat % 16 < 16 := Nat.mod_lt _ (by decide)
  rw [decodeFamily8, toNat_nField]
  interval_cases w.toNat % 16 <;> simp [eq_comm]

theorem decodeFamilyE_eq_error_iff : decodeFamilyE w = .error e ↔
    e = .familyESubOpcode ∧ w.toNat % 256 ∉ [0x9E, 0xA1] := by
  rw [decodeFamilyE, toNat_nnField]
  split <;> simp_all [eq_comm (b := e)]

theorem decodeFamilyF_eq_error_iff : decodeFamilyF w = .error e ↔
    e = .familyFSubOpcode ∧ w.toNat % 256 ∉ [0x07, 0x0A, 0x15, 0x18, 0x1E, 0x33, 0x55, 0x65] := by
  rw [decodeFamilyF, toNat_nnField]
  split <;> simp_all [eq_comm (b := e)]

end

/-- The class of unrecognized words that bears a name (R68, the table). -/
def InClass (w : Word) : Unrecognized → Prop
  | .family0 => w.toNat / 4096 = 0 ∧ w.toNat ≠ 0x00E0 ∧ w.toNat ≠ 0x00EE
  | .family8SubOpcode => w.toNat / 4096 = 8 ∧ w.toNat % 16 ∈ [0x8, 0x9, 0xA, 0xB, 0xC, 0xD, 0xF]
  | .familyC => w.toNat / 4096 = 0xC
  | .familyESubOpcode => w.toNat / 4096 = 0xE ∧ w.toNat % 256 ∉ [0x9E, 0xA1]
  | .familyFSubOpcode => w.toNat / 4096 = 0xF ∧ w.toNat % 256 ∉ [0x07, 0x0A, 0x15, 0x18, 0x1E, 0x33, 0x55, 0x65]

theorem decodeByFamily_eq_error_iff {w : Word} {e : Unrecognized} (hcls : w.toNat ≠ 0x00E0)
    (hret : w.toNat ≠ 0x00EE) : decodeByFamily w = .error e ↔ InClass w e := by
  have hlt : w.toNat / 4096 < 16 := Nat.div_lt_of_lt_mul w.isLt
  rw [decodeByFamily, toNat_opField]
  interval_cases hop : w.toNat / 4096 <;> cases e <;>
    simp [InClass, hop, hcls, hret, decodeFamily8_eq_error_iff, decodeFamilyE_eq_error_iff,
      decodeFamilyF_eq_error_iff]

theorem decode_eq_error_iff (w : Word) (e : Unrecognized) : decode w = .error e ↔ InClass w e := by
  by_cases hcls : w = 0x00E0#16
  · subst hcls; cases e <;> simp [decode, InClass]
  by_cases hret : w = 0x00EE#16
  · subst hret; cases e <;> simp [decode, InClass]
  rw [decode, if_neg hcls, if_neg hret]
  exact decodeByFamily_eq_error_iff (fun h => hcls (BitVec.eq_of_toNat_eq h)) (fun h => hret (BitVec.eq_of_toNat_eq h))

/-- Settles O4: the five classes are the five names. -/
theorem unrecognizedWordsAreTheFiveClasses : Obligations.UnrecognizedWordsAreTheFiveClasses :=
  fun w => ⟨decode_eq_error_iff w .family0, decode_eq_error_iff w .family8SubOpcode, decode_eq_error_iff w .familyC,
    decode_eq_error_iff w .familyESubOpcode, decode_eq_error_iff w .familyFSubOpcode⟩

end Sys2Proof
end

section
/-! SUPPORT. Frames (10_state.md R31, 00_scope.md R7): what each instruction may write is one table (`mayWrite`), and
one case analysis over the instructions (`exec_unchanged`) shows that none of them writes anything else. -/

namespace Sys2Proof.Machine

open Sys2Proof.Claims

/-! ## The frame of a state update -/

/-- A frame needs an argument only where an update touches a field: the other fields are equal by definition. -/
theorem unchanged_intro {m : MayWrite} {s t : State}
    (regs : ∀ y, m.regs y = false → t.readV y = s.readV y := by intros; rfl)
    (pc : m.pc = false → t.pc = s.pc := by intros; rfl)
    (ireg : m.ireg = false → t.ireg = s.ireg := by intros; rfl)
    (stack : ∀ j, m.stack j = false → t.readStack j = s.readStack j := by intros; rfl)
    (sp : m.sp = false → t.sp = s.sp := by intros; rfl)
    (dt : m.dt = false → t.dt = s.dt := by intros; rfl)
    (st : m.st = false → t.st = s.st := by intros; rfl)
    (mem : ∀ a, m.mem a = false → t.mem.read a = s.mem.read a := by intros; rfl)
    (fb : ∀ j, m.fb j = false → t.fb.read j = s.fb.read j := by intros; rfl)
    (diag : m.diag = false → t.diag = s.diag := by intros; rfl)
    (free : m.free = false → t.free = s.free := by intros; rfl)
    (key : t.key = s.key := by rfl) (quirkShift : t.quirkShift = s.quirkShift := by rfl)
    (clipping : t.clipping = s.clipping := by rfl) (fault : t.fault = s.fault := by rfl)
    (schedule : t.schedule = s.schedule := by rfl) : Unchanged m s t :=
  ⟨regs, pc, ireg, stack, sp, dt, st, mem, fb, diag, free, key, quirkShift, clipping, fault, schedule⟩

/-- What a frame names is not what it does not name. -/
theorem ne_of_named {α : Type} {named : α → Bool} {a b : α} (ha : named a = true) (hb : named b = false) :
    b ≠ a := ne_of_apply_ne named (by simp [ha, hb])

section
variable {m : MayWrite} (s : State)

theorem unchanged_jump (h : m.pc = true) (a : Word) : Unchanged m s (s.jump a) :=
  unchanged_intro (pc := by simp [h])

theorem unchanged_rewind (h : m.pc = true) : Unchanged m s s.rewind := unchanged_intro (pc := by simp [h])

theorem unchanged_skipIf (h : m.pc = true) (c : Bool) : Unchanged m s (s.skipIf c) := by
  cases c
  · exact unchanged_intro
  · exact unchanged_intro (pc := by simp [h])

theorem unchanged_popToPc (hpc : m.pc = true) (hsp : m.sp = true) : Unchanged m s s.popToPc :=
  unchanged_intro (pc := by simp [hpc]) (sp := by simp [hsp])

theorem unchanged_push_jump (hpc : m.pc = true) (hsp : m.sp = true) (hstack : m.stack s.sp = true) (a b : Word) :
    Unchanged m s ((s.push a).jump b) :=
  unchanged_intro (pc := by simp [hpc]) (sp := by simp [hsp]) (stack := fun j hj => by
    rw [readStack_congr (jump_stack ..), readStack_push, if_neg (ne_of_named hstack hj)])

theorem unchanged_writeV {x : Reg} (h : m.regs x = true) (b : Byte) : Unchanged m s (s.writeV x b) :=
  unchanged_intro (regs := fun y hy => readV_writeV_ne s (ne_of_named h hy) b)

theorem unchanged_writeResultAndFlag {x : Reg} (hx : m.regs x = true) (hf : m.regs 15 = true) (b : Byte) (f : Bool) :
    Unchanged m s (s.writeResultAndFlag x b f) :=
  unchanged_intro (regs := fun y hy => by
    rw [readV_writeResultAndFlag, if_neg (ne_of_named hf hy), if_neg (ne_of_named hx hy)])

theorem unchanged_writeRegsFrom {bs : List Byte} (hlen : bs.length ≤ 16)
    (h : ∀ y : Reg, y.toNat < bs.length → m.regs y = true) : Unchanged m s (s.writeRegsFrom 0 bs) := by
  have hregs (y : Reg) (hy : m.regs y = false) : (s.writeRegsFrom 0 bs).readV y = s.readV y := by
    rw [readV_writeRegsFrom bs 0 s y (by omega), if_neg]
    rintro ⟨-, hlt⟩
    simp [h y (by omega)] at hy
  rw [writeRegsFrom_eq] at hregs ⊢
  exact unchanged_intro (regs := hregs)

theorem unchanged_writeI (h : m.ireg = true) (a : Word) : Unchanged m s (s.writeI a) :=
  unchanged_intro (ireg := by simp [h])

theorem unchanged_writeDt (h : m.dt = true) (b : Byte) : Unchanged m s (s.writeDt b) :=
  unchanged_intro (dt := by simp [h])

theorem unchanged_writeSt (h : m.st = true) (b : Byte) : Unchanged m s (s.writeSt b) :=
  unchanged_intro (st := by simp [h])

theorem unchanged_storeBytes {a : Nat} {bs : List Byte} (h : ∀ c, a ≤ c ∧ c < a + bs.length → m.mem c = true) :
    Unchanged m s (s.storeBytes a bs) :=
  unchanged_intro (mem := fun c hc => Memory.read_writeBytes_outside fun hin => by simp [h c hin] at hc)

theorem unchanged_report (h : m.diag = true) (k : ReportKind) (w : Word) : Unchanged m s (s.report k w) :=
  unchanged_intro (diag := by simp [h])

theorem unchanged_writeFlag_report (hf : m.regs 15 = true) (h : m.diag = true) (f : Bool) (k : ReportKind) (w : Word) :
    Unchanged m s ((s.writeFlag f).report k w) := by
  have hregs := (unchanged_writeV s hf (if f then 1 else 0)).1
  exact unchanged_intro (regs := hregs) (diag := by simp [h])

theorem unchanged_writeFlag_blit {js : List Nat} (hf : m.regs 15 = true) (hfree : m.free = true)
    (h : ∀ j ∈ js, m.fb j = true) (f : Bool) : Unchanged m s (blit (s.writeFlag f) js) := by
  have hblit := blit_frame js (s.writeFlag f)
  refine unchanged_intro (fun y hy => ?_) (fun _ => hblit.pc) (fun _ => hblit.ireg)
    (fun j _ => readStack_congr hblit.stack j) (fun _ => hblit.sp) (fun _ => hblit.dt) (fun _ => hblit.st)
    (fun a _ => by rw [hblit.mem, writeFlag_mem]) (fun j hj => ?_) (fun _ => hblit.diag) (by simp [hfree]) hblit.key
    hblit.quirkShift hblit.clipping hblit.fault hblit.schedule
  · have hne : y ≠ State.vfIndex := ne_of_named hf hy
    rw [hblit.regs y hne, readV_writeFlag, if_neg hne]
  · rw [blit_other_cell (fun hin => by simp [h j hin] at hj), writeFlag_fb]

end

/-! ## The table of frames -/

/-- The cells that `DXYN` draws on in state `s`. -/
def drawTargets (s : State) (x y : Reg) (n : Nibble) : List Nat :=
  spriteTargets s.clipping (anchorX (s.readV x)) (anchorY (s.readV y)) (s.mem.readBytes (effAddr s 0) n.toNat)

/-- What an instruction may write when it is executed in state `s`. -/
def mayWrite (s : State) : Instr → MayWrite
  | .cls => { fb := fun _ => true }
  | .ret => { pc := true, sp := true }
  | .call _ => { pc := true, sp := true, stack := fun j => j == s.sp }
  | .jp _ | .jpV0 _ | .seNn _ _ | .sneNn _ _ | .seVy _ _ _ | .sneVy _ _ _ | .skp _ | .sknp _ => { pc := true }
  | .ldNn x _ | .addNn x _ | .ldVy x _ | .orVy x _ | .andVy x _ | .xorVy x _ | .ldVxDt x =>
    { regs := fun y => y == x }
  | .ldVxK x => { regs := fun y => y == x, pc := true }
  | .load x => { regs := fun y => decide (y.toNat ≤ x.toNat), diag := true }
  | .addVy x _ | .sub x _ | .subn x _ | .shr x _ | .shl x _ => { regs := fun r => r == x || r == 15 }
  | .ldI _ | .addI _ => { ireg := true }
  | .ldDtVx _ => { dt := true }
  | .ldStVx _ => { st := true }
  | .bcd _ => { mem := fun b => decide (effAddr s 0 ≤ b ∧ b < effAddr s 0 + 3), diag := true }
  | .store x => { mem := fun b => decide (effAddr s 0 ≤ b ∧ b < effAddr s 0 + (x.toNat + 1)), diag := true }
  | .drw x y n =>
    { regs := fun r => r == 15, fb := fun j => decide (j ∈ drawTargets s x y n), diag := true, free := true }

theorem exec_unchanged (i : Instr) (s : State) : ∃ t, exec i s = .next t ∧ Unchanged (mayWrite s i) s t := by
  cases i
  case cls => exact ⟨_, rfl, unchanged_intro (fb := nofun)⟩
  case ret => exact ⟨_, rfl, unchanged_popToPc s rfl rfl⟩
  case call nnn => exact ⟨_, rfl, unchanged_push_jump s rfl rfl (beq_self_eq_true s.sp) _ _⟩
  case jp | jpV0 => exact ⟨_, rfl, unchanged_jump s rfl _⟩
  case seNn | sneNn | seVy | sneVy | skp | sknp => exact ⟨_, rfl, unchanged_skipIf s rfl _⟩
  case ldNn x _ | addNn x _ | ldVy x _ | orVy x _ | andVy x _ | xorVy x _ | ldVxDt x =>
    exact ⟨_, rfl, unchanged_writeV s (beq_self_eq_true x) _⟩
  case addVy x _ | sub x _ | subn x _ | shr x _ | shl x _ =>
    exact ⟨_, rfl, unchanged_writeResultAndFlag s (by simp [mayWrite]) (by simp [mayWrite]) _ _⟩
  case ldI | addI => exact ⟨_, rfl, unchanged_writeI s rfl _⟩
  case ldDtVx => exact ⟨_, rfl, unchanged_writeDt s rfl _⟩
  case ldStVx => exact ⟨_, rfl, unchanged_writeSt s rfl _⟩
  case ldVxK x =>
    simp only [exec, execLdVxK]
    split
    · exact ⟨_, rfl, unchanged_writeV s (beq_self_eq_true x) _⟩
    · exact ⟨_, rfl, unchanged_rewind s rfl⟩
  case load x =>
    simp only [exec, execLoad]
    split
    · exact ⟨_, rfl, unchanged_writeRegsFrom s (by simp; omega) fun y hy => by simp [mayWrite] at hy ⊢; omega⟩
    · exact ⟨_, rfl, unchanged_report s rfl _ _⟩
  case bcd x =>
    simp only [exec, execBcd]
    split
    · exact ⟨_, rfl, unchanged_storeBytes s fun c hc => decide_eq_true hc⟩
    · exact ⟨_, rfl, unchanged_report s rfl _ _⟩
  case store x =>
    simp only [exec, execStore]
    split
    · exact ⟨_, rfl, unchanged_storeBytes s fun c hc => decide_eq_true (by rwa [length_firstRegs] at hc)⟩
    · exact ⟨_, rfl, unchanged_report s rfl _ _⟩
  case drw x y n =>
    simp only [exec, execDrw]
    split
    · exact ⟨_, rfl, unchanged_writeFlag_blit s rfl rfl (fun j hj => decide_eq_true hj) false⟩
    · exact ⟨_, rfl, unchanged_writeFlag_report s rfl rfl false _ _⟩

theorem unchanged_of_exec {i : Instr} {s t : State} (h : exec i s = .next t) : Unchanged (mayWrite s i) s t := by
  obtain ⟨t', h', hframe⟩ := exec_unchanged i s
  cases h.symm.trans h'
  exact hframe

/-! ## The frames, group by group -/

/-- Settles O20: the eight rows of the table that name `pc` alone. -/
theorem jumpsAndSkipsChangeOnlyPc : Obligations.JumpsAndSkipsChangeOnlyPc := by
  rintro i s t (⟨_, rfl | rfl⟩ | ⟨_, _, rfl | rfl⟩ | ⟨_, _, _, rfl | rfl⟩ | ⟨_, rfl | rfl⟩) h <;>
    exact unchanged_of_exec h

/-- Settles O21: the rows of `2NNN` and `00EE`. -/
theorem callAndReturnFrame : Obligations.CallAndReturnFrame :=
  ⟨fun _ _ _ => unchanged_of_exec, fun _ _ => unchanged_of_exec⟩

/-- Settles O22: the rows that name general registers, with `pc` in that of `FX0A` and the records in that of `FX65`. -/
theorem registerWritersFrame : Obligations.RegisterWritersFrame := by
  refine ⟨?_, fun _ _ _ => unchanged_of_exec, fun _ _ _ => unchanged_of_exec⟩
  rintro i x s t (⟨_, rfl | rfl⟩ | ⟨_, rfl | rfl | rfl | rfl⟩ | rfl) h <;> exact unchanged_of_exec h

/-- Settles O23: the five rows that name `V[X]` and VF. -/
theorem flagWritersFrame : Obligations.FlagWritersFrame := by
  rintro i x y s t (rfl | rfl | rfl | rfl | rfl) h <;> exact unchanged_of_exec h

/-- Settles O24: the rows of the index register and of the timers. -/
theorem indexAndTimerWritersFrame : Obligations.IndexAndTimerWritersFrame :=
  ⟨fun _ _ _ => unchanged_of_exec, fun _ _ _ => unchanged_of_exec, fun _ _ _ => unchanged_of_exec,
    fun _ _ _ => unchanged_of_exec⟩

/-- Settles O25: the rows of the two storing instructions, whose blocks start at the effective address. -/
theorem storingFrame : Obligations.StoringFrame := by
  refine ⟨?_, ?_⟩ <;> rintro x s t a h rfl <;> exact unchanged_of_exec h

/-- Settles O26: the rows of the two display instructions. -/
theorem displayFrame : Obligations.DisplayFrame := by
  refine ⟨fun _ _ => unchanged_of_exec, ?_⟩
  rintro x y n s t js h rfl
  exact unchanged_of_exec h

end Sys2Proof.Machine
end

section
/-! SUPPORT. The draw (44_display.md R141 to R143). A sprite bit lands on one cell or on none
(`pixelTarget_eq_some_iff`), two bits never on the same one, so the rules on blits apply: each cell that the sprite
covers is toggled once. -/

namespace Sys2Proof.Machine

open Sys2Proof.Claims

/-! ## Where a sprite bit lands (R141) -/

/-- Row `r`, column `c` of a sprite anchored at `(x0, y0)` falls on column `cx`, row `cy`, clipped or wrapped. -/
def LandsOn (clip : Bool) (x0 y0 r c cx cy : Nat) : Prop :=
  if clip then x0 + c = cx ∧ y0 + r = cy else (x0 + c) % 64 = cx ∧ (y0 + r) % 32 = cy

theorem pixelTarget_eq_some_iff {clip : Bool} {x0 y0 r c j : Nat} :
    pixelTarget clip x0 y0 r c = some j ↔
      ∃ cx cy, cx < 64 ∧ cy < 32 ∧ LandsOn clip x0 y0 r c cx cy ∧ cellIndex cx cy = j := by
  cases clip
  · simp [pixelTarget, LandsOn, Config.fbWidth, Config.fbHeight, Nat.mod_lt]
  · simp only [pixelTarget, LandsOn, if_true, Option.ite_none_right_eq_some, Option.some.injEq]
    constructor
    · rintro ⟨⟨hx, hy⟩, hj⟩
      exact ⟨_, _, hx, hy, ⟨rfl, rfl⟩, hj⟩
    · rintro ⟨_, _, hx, hy, ⟨rfl, rfl⟩, hj⟩
      exact ⟨⟨hx, hy⟩, hj⟩

/-- Two bits of a sprite never land on the same cell: it has fewer rows and columns than the buffer, so wrapping does
not bring two of them together. -/
theorem LandsOn.inj {clip : Bool} {x0 y0 r c r' c' cx cy : Nat} (hr : r < 15) (hr' : r' < 15) (hc : c < 8)
    (hc' : c' < 8) (h : LandsOn clip x0 y0 r c cx cy) (h' : LandsOn clip x0 y0 r' c' cx cy) : r = r' ∧ c = c' := by
  cases clip <;> simp [LandsOn] at h h' <;> omega

theorem lt_of_pixelTarget {clip : Bool} {x0 y0 r c j : Nat} (h : pixelTarget clip x0 y0 r c = some j) :
    j < Config.fbSize := by
  obtain ⟨cx, cy, hx, hy, -, rfl⟩ := pixelTarget_eq_some_iff.mp h
  exact cellIndex_lt hx hy

theorem pixelTarget_inj {clip : Bool} {x0 y0 r c r' c' j : Nat} (hr : r < 15) (hr' : r' < 15) (hc : c < 8)
    (hc' : c' < 8) (h : pixelTarget clip x0 y0 r c = some j) (h' : pixelTarget clip x0 y0 r' c' = some j) :
    r = r' ∧ c = c' := by
  obtain ⟨cx, cy, hx, -, hland, rfl⟩ := pixelTarget_eq_some_iff.mp h
  obtain ⟨cx', cy', hx', -, hland', hj⟩ := pixelTarget_eq_some_iff.mp h'
  obtain ⟨rfl, rfl⟩ := cellIndex_inj hx' hx hj
  exact hland.inj hr hr' hc hc' hland'

/-! ## The cells under a sprite -/

theorem mem_rowTargets {clip : Bool} {x0 y0 r j : Nat} {b : Byte} : j ∈ rowTargets clip x0 y0 r b ↔
    ∃ c < 8, spriteBit b c = true ∧ pixelTarget clip x0 y0 r c = some j := by
  simp [rowTargets, List.mem_filterMap]

theorem mem_spriteTargets {clip : Bool} {x0 y0 j : Nat} {rows : List Byte} : j ∈ spriteTargets clip x0 y0 rows ↔
    ∃ r < rows.length, ∃ c < 8, spriteBit (rows.getD r 0) c = true ∧ pixelTarget clip x0 y0 r c = some j := by
  simp only [spriteTargets, List.mem_flatMap, List.exists_mem_zipIdx', mem_rowTargets]
  refine exists_congr fun r => ⟨fun ⟨hr, h⟩ => ⟨hr, ?_⟩, fun ⟨hr, h⟩ => ⟨hr, ?_⟩⟩
  · rwa [List.getD_eq_getElem _ _ hr]
  · rwa [List.getD_eq_getElem _ _ hr] at h

theorem nodup_rowTargets (clip : Bool) (x0 y0 : Nat) {r : Nat} (hr : r < 15) (b : Byte) :
    (rowTargets clip x0 y0 r b).Nodup := by
  rw [rowTargets, List.Nodup, List.pairwise_filterMap]
  refine List.nodup_range.imp_of_mem fun hc hc' hne j hj j' hj' heq => hne ?_
  rw [List.mem_range] at hc hc'
  simp only [Option.ite_none_right_eq_some] at hj hj'
  exact (pixelTarget_inj hr hr hc hc' hj.2 (heq ▸ hj'.2)).2

/-- The rows are drawn one after another, and no two of them share a cell. -/
theorem nodup_spriteTargets (clip : Bool) (x0 y0 : Nat) {rows : List Byte} (hlen : rows.length ≤ 15) :
    (spriteTargets clip x0 y0 rows).Nodup := by
  have hlt {p : Byte × Nat} (hp : p ∈ rows.zipIdx) : p.2 < 15 := (List.snd_lt_of_mem_zipIdx hp).trans_le hlen
  refine List.nodup_flatMap.mpr ⟨fun p hp => nodup_rowTargets clip x0 y0 (hlt hp) p.1, ?_⟩
  refine (List.pairwise_map.mp (List.nodup_zipIdx_map_snd rows)).imp_of_mem fun hp hp' hne j hj hj' => hne ?_
  obtain ⟨c, hc, -, hj⟩ := mem_rowTargets.mp hj
  obtain ⟨c', hc', -, hj'⟩ := mem_rowTargets.mp hj'
  exact (pixelTarget_inj (hlt hp) (hlt hp') hc hc' hj hj').1

theorem lt_of_mem_spriteTargets {clip : Bool} {x0 y0 j : Nat} {rows : List Byte}
    (h : j ∈ spriteTargets clip x0 y0 rows) : j < Config.fbSize := by
  obtain ⟨_, _, _, _, _, hj⟩ := mem_spriteTargets.mp h
  exact lt_of_pixelTarget hj

/-- Settles O55: a target is the index of a cell, and it tells the row and the column of the sprite bit. -/
theorem spriteTouchesNoCellTwice : Obligations.SpriteTouchesNoCellTwice :=
  fun clip x0 y0 _ _ _ hlen => ⟨nodup_spriteTargets clip x0 y0 hlen, fun _ => lt_of_mem_spriteTargets⟩

/-! ## The cells that `DXYN` draws on -/

section
variable (s : State) (x y : Reg) (n : Nibble)

theorem nodup_drawTargets : (drawTargets s x y n).Nodup :=
  nodup_spriteTargets _ _ _ (by rw [Memory.length_readBytes]; exact Nat.le_of_lt_succ n.isLt)

theorem cellIndex_mem_drawTargets {cx cy : Nat} (hx : cx < 64) (hy : cy < 32) :
    cellIndex cx cy ∈ drawTargets s x y n ↔ DrawCovers s x y n cx cy := by
  have hpixel (r c : Nat) : pixelTarget s.clipping (anchorX (s.readV x)) (anchorY (s.readV y)) r c =
      some (cellIndex cx cy) ↔ LandsOn s.clipping ((s.readV x).toNat % 64) ((s.readV y).toNat % 32) r c cx cy := by
    rw [pixelTarget_eq_some_iff]
    constructor
    · rintro ⟨cx', cy', hx', -, hland, hj⟩
      obtain ⟨rfl, rfl⟩ := cellIndex_inj hx' hx hj
      exact hland
    · exact fun hland => ⟨cx, cy, hx, hy, hland, rfl⟩
  simp only [drawTargets, mem_spriteTargets, Memory.length_readBytes, hpixel]
  refine exists_congr fun r => ⟨fun ⟨hr, c, hc, hbit, hland⟩ => ⟨c, hr, hc, ?_, hland⟩,
    fun ⟨c, hr, hc, hbit, hland⟩ => ⟨hr, c, hc, ?_, hland⟩⟩
  · rwa [Memory.getD_readBytes _ _ _ _ hr] at hbit
  · rwa [Memory.getD_readBytes _ _ _ _ hr]

/-- The sprite that `DXYN` draws in state `s` covers a cell that holds `b` there. -/
def DrawHits (b : Byte) : Prop := ∃ cx < 64, ∃ cy < 32, DrawCovers s x y n cx cy ∧ s.pixel cx cy = b

theorem exists_mem_drawTargets_iff (b : Byte) :
    (∃ j ∈ drawTargets s x y n, s.fb.read j = b) ↔ DrawHits s x y n b := by
  constructor
  · rintro ⟨j, hj, hb⟩
    obtain ⟨r, hr, c, hc, hbit, hpixel⟩ := mem_spriteTargets.mp hj
    obtain ⟨cx, cy, hx, hy, -, rfl⟩ := pixelTarget_eq_some_iff.mp hpixel
    exact ⟨cx, hx, cy, hy, (cellIndex_mem_drawTargets s x y n hx hy).mp hj, hb⟩
  · rintro ⟨cx, hx, cy, hy, hcov, hb⟩
    exact ⟨_, (cellIndex_mem_drawTargets s x y n hx hy).mpr hcov, hb⟩

end

/-! ## What a draw leaves (R141, R142) -/

/-- The state after a draw that is not refused. -/
def drawn (s : State) (x y : Reg) (n : Nibble) : State := blit (s.writeFlag false) (drawTargets s x y n)

theorem exec_drw_of_fits (x y : Reg) {n : Nibble} {s : State} (h : s.ireg.toNat + n.toNat ≤ 4096) :
    exec (.drw x y n) s = .next (drawn s x y n) := if_pos (decide_eq_true h)

theorem exec_drw_of_not_fits (x y : Reg) {n : Nibble} {s : State} (h : 4096 < s.ireg.toNat + n.toNat) :
    exec (.drw x y n) s = .next ((s.writeFlag false).report .spriteReadOutOfBounds (encode (.drw x y n))) :=
  if_neg fun hblock => absurd (of_decide_eq_true hblock) (Nat.not_le.mpr h)

theorem drawn_frame (s : State) (x y : Reg) (n : Nibble) : BlitFrame s (drawn s x y n) := by
  have hflag : BlitFrame s (s.writeFlag false) := by
    refine ⟨fun r hr => ?_, rfl, rfl, rfl, rfl, rfl, rfl, rfl, rfl, rfl, rfl, rfl, rfl, rfl⟩
    rw [readV_writeFlag, if_neg hr]
  exact hflag.trans (blit_frame _ _)

theorem drawn_fb_wf (x y : Reg) (n : Nibble) {s : State} (hwf : s.fb.wf Config.fbSize = true) :
    (drawn s x y n).fb.wf Config.fbSize = true := blit_wf (fun _ => lt_of_mem_spriteTargets) hwf

theorem drawn_pixel_of_not_covers {s : State} {x y : Reg} {n : Nibble} {cx cy : Nat} (hx : cx < 64) (hy : cy < 32)
    (h : ¬DrawCovers s x y n cx cy) : (drawn s x y n).pixel cx cy = s.pixel cx cy :=
  blit_other_cell (s := s.writeFlag false) (mt (cellIndex_mem_drawTargets s x y n hx hy).mp h)

section
variable {s : State} (x y : Reg) (n : Nibble) (hwf : s.fb.wf Config.fbSize = true) (hbits : s.CellsAreBits)
include hwf hbits

theorem drawn_on_bits : (∀ j ∈ drawTargets s x y n, (drawn s x y n).fb.read j = s.fb.read j ^^^ 1) ∧
    (drawn s x y n).readV 15 = if ∃ j ∈ drawTargets s x y n, s.fb.read j = 1 then 1 else 0 := by
  obtain ⟨hcells, hflag, -⟩ := blit_on_bits (s := s.writeFlag false) (nodup_drawTargets s x y n)
    (fun _ => lt_of_mem_spriteTargets) hwf (fun j hj => hbits j (lt_of_mem_spriteTargets hj))
  have hclear : (s.writeFlag false).readV State.vfIndex = 0 := readV_writeV_self s State.vfIndex 0
  rw [hclear] at hflag
  exact ⟨hcells, hflag⟩

theorem drawn_pixel_of_covers {cx cy : Nat} (hx : cx < 64) (hy : cy < 32) (h : DrawCovers s x y n cx cy) :
    (drawn s x y n).pixel cx cy = s.pixel cx cy ^^^ 1 :=
  (drawn_on_bits x y n hwf hbits).1 _ ((cellIndex_mem_drawTargets s x y n hx hy).mpr h)

theorem drawn_flag_of_hits (h : DrawHits s x y n 1) : (drawn s x y n).readV 15 = 1 := by
  rw [(drawn_on_bits x y n hwf hbits).2, if_pos ((exists_mem_drawTargets_iff s x y n 1).mpr h)]

theorem drawn_flag_of_not_hits (h : ¬DrawHits s x y n 1) : (drawn s x y n).readV 15 = 0 := by
  rw [(drawn_on_bits x y n hwf hbits).2, if_neg (mt (exists_mem_drawTargets_iff s x y n 1).mp h)]

theorem drawn_cellsAreBits : (drawn s x y n).CellsAreBits := by
  intro j hj
  by_cases hin : j ∈ drawTargets s x y n
  · rw [(drawn_on_bits x y n hwf hbits).1 j hin]
    obtain h | h := hbits j hj <;> simp [h]
  · rw [drawn, blit_other_cell hin]
    exact hbits j hj

end

/-- Settles O52: the targets of the blit are the cells the sprite covers, each once. -/
theorem drawXorsSprite : Obligations.DrawXorsSprite := by
  refine ⟨fun x y n s ⟨_, hwf, _⟩ hbits hfit => ?_, fun x y n s hfit => ?_⟩
  · exact ⟨drawn s x y n, exec_drw_of_fits x y hfit,
      fun cx cy hx hy => ⟨drawn_pixel_of_covers x y n hwf hbits hx hy, drawn_pixel_of_not_covers hx hy⟩,
      drawn_flag_of_hits x y n hwf hbits, drawn_flag_of_not_hits x y n hwf hbits⟩
  · exact ⟨drawn s x y n, exec_drw_of_fits x y hfit, (drawn_frame s x y n).diag⟩

/-! ## The same draw twice (R142 b) -/

/-- A draw moves neither its sprite nor, where VF is no coordinate, its anchor. -/
theorem drawCovers_drawn {s : State} {x y : Reg} {n : Nibble} (hx : x ≠ 15) (hy : y ≠ 15) (cx cy : Nat) :
    DrawCovers (drawn s x y n) x y n cx cy ↔ DrawCovers s x y n cx cy := by
  have h := drawn_frame s x y n
  rw [DrawCovers, DrawCovers, Covers, Covers, h.regs x hx, h.regs y hy, h.mem, h.ireg, h.clipping]

/-- The second draw meets a lit cell where the first one lit it. -/
theorem drawHits_drawn {s : State} {x y : Reg} {n : Nibble} (hwf : s.fb.wf Config.fbSize = true)
    (hbits : s.CellsAreBits) (hx : x ≠ 15) (hy : y ≠ 15) :
    DrawHits (drawn s x y n) x y n 1 ↔ DrawHits s x y n 0 := by
  refine exists_congr fun cx => and_congr_right fun hcx => exists_congr fun cy => and_congr_right fun hcy => ?_
  rw [drawCovers_drawn hx hy]
  refine and_congr_right fun hcov => ?_
  rw [drawn_pixel_of_covers x y n hwf hbits hcx hcy hcov]
  obtain h | h := hbits _ (cellIndex_lt hcx hcy) <;> simp [State.pixel, h]

/-- Settles O54: the second draw covers the same cells, and a cell toggled twice is as it was. -/
theorem drawTwiceRestoresBuffer : Obligations.DrawTwiceRestoresBuffer := by
  intro x y n s t ⟨_, hwf, _⟩ hbits hfit hx hy h
  obtain rfl : drawn s x y n = t := Host.Outcome.next.inj ((exec_drw_of_fits x y hfit).symm.trans h)
  have hwf' := drawn_fb_wf x y n hwf
  have hbits' := drawn_cellsAreBits x y n hwf hbits
  refine ⟨drawn (drawn s x y n) x y n, exec_drw_of_fits x y (by rwa [(drawn_frame s x y n).ireg]),
    fun cx cy hcx hcy => ?_, ?_, ?_⟩
  · by_cases hcov : DrawCovers s x y n cx cy
    · rw [drawn_pixel_of_covers x y n hwf' hbits' hcx hcy ((drawCovers_drawn hx hy cx cy).mpr hcov),
        drawn_pixel_of_covers x y n hwf hbits hcx hcy hcov, BitVec.xor_assoc, BitVec.xor_self, BitVec.xor_zero]
    · rw [drawn_pixel_of_not_covers hcx hcy (mt (drawCovers_drawn hx hy cx cy).mp hcov),
        drawn_pixel_of_not_covers hcx hcy hcov]
  · exact fun hhit => drawn_flag_of_hits x y n hwf' hbits' ((drawHits_drawn hwf hbits hx hy).mpr hhit)
  · exact fun hhit => drawn_flag_of_not_hits x y n hwf' hbits' (mt (drawHits_drawn hwf hbits hx hy).mp hhit)

/-! ## The refused draw (R143) -/

/-- The record of the instruction at `p` names `p`. -/
theorem report_of_pc {s : State} {p : Word} (hpc : s.pc = p + 2) (k : ReportKind) (w : Word) :
    s.report k w = { s with diag := s.diag ++ [⟨k, w, p⟩] } := by
  rw [State.report, State.instrAddr, hpc, BitVec.add_sub_cancel]

/-- Settles O53: VF is cleared before the bound is checked, and the report is all that follows. -/
theorem drawOutsideMemoryIsRefused : Obligations.DrawOutsideMemoryIsRefused := by
  intro x y n s p hpc hfit
  rw [exec_drw_of_not_fits x y hfit, report_of_pc (s := s.writeFlag false) hpc]
  rfl

end Sys2Proof.Machine
end

section
/-! SUPPORT. The invariant (10_state.md R25 to R27) and the host's duty on the cells: what an instruction can do to the
two stores and to the records is said once (`exec_stores`); that a step keeps the invariant and the cells at 0 or 1
follows from it. -/

namespace Sys2Proof.Machine

/-! ## What an instruction can do to the stores and the records -/

/-- Memory is left or gets one block inside its size; the frame buffer is left, emptied or drawn on; the records are
left or get one more. -/
structure StoresFrame (s t : State) : Prop where
  mem : t.mem = s.mem ∨ ∃ a bs, a + bs.length ≤ Config.memSize ∧ t.mem = s.mem.writeBytes a bs
  fb : t.fb = s.fb ∨ t.fb = [] ∨ ∃ x y n, t = drawn s x y n
  diag : t.diag = s.diag ∨ ∃ r, t.diag = s.diag ++ [r]

theorem StoresFrame.of_eq {s t : State} (h : (t.mem, t.fb, t.diag) = (s.mem, s.fb, s.diag)) : StoresFrame s t := by
  simp only [Prod.mk.injEq] at h
  obtain ⟨hmem, hfb, hdiag⟩ := h
  exact ⟨.inl hmem, .inl hfb, .inl hdiag⟩

theorem StoresFrame.report (s : State) (k : ReportKind) (w : Word) : StoresFrame s (s.report k w) :=
  ⟨.inl rfl, .inl rfl, .inr ⟨_, rfl⟩⟩

theorem StoresFrame.storeBytes {s : State} {a n : Nat} {bs : List Byte} (h : blockInMemory a n = true)
    (hlen : bs.length = n) : StoresFrame s (s.storeBytes a bs) :=
  ⟨.inr ⟨a, bs, hlen ▸ of_decide_eq_true h, rfl⟩, .inl rfl, .inl rfl⟩

theorem StoresFrame.drawn (s : State) (x y : Reg) (n : Nibble) : StoresFrame s (drawn s x y n) :=
  have h := drawn_frame s x y n
  ⟨.inl h.mem, .inr (.inr ⟨x, y, n, rfl⟩), .inl h.diag⟩

theorem exec_stores (i : Instr) (s : State) : ∃ t, exec i s = .next t ∧ StoresFrame s t := by
  cases i
  case cls => exact ⟨_, rfl, .inl rfl, .inr (.inl rfl), .inl rfl⟩
  case seNn | sneNn | seVy | sneVy | skp | sknp => exact ⟨_, rfl, .of_eq (by simp)⟩
  case ldVxK x =>
    simp only [exec, execLdVxK]
    split <;> exact ⟨_, rfl, .of_eq rfl⟩
  case drw x y n =>
    simp only [exec, execDrw]
    split
    · exact ⟨_, rfl, .drawn s x y n⟩
    · exact ⟨_, rfl, .inl rfl, .inl rfl, .inr ⟨_, rfl⟩⟩
  case load x =>
    simp only [exec, execLoad]
    split
    · exact ⟨_, rfl, .of_eq (by rw [writeRegsFrom_eq])⟩
    · exact ⟨_, rfl, .report s _ _⟩
  case bcd x =>
    simp only [exec, execBcd]
    split
    · exact ⟨_, rfl, .storeBytes ‹_› rfl⟩
    · exact ⟨_, rfl, .report s _ _⟩
  case store x =>
    simp only [exec, execStore]
    split
    · exact ⟨_, rfl, .storeBytes ‹_› (length_firstRegs ..)⟩
    · exact ⟨_, rfl, .report s _ _⟩
  all_goals exact ⟨_, rfl, .of_eq rfl⟩

theorem StoresFrame.of_exec {i : Instr} {s t : State} (h : exec i s = .next t) : StoresFrame s t := by
  obtain ⟨t', h', hframe⟩ := exec_stores i s
  cases h.symm.trans h'
  exact hframe

theorem StoresFrame.mem_wf {s t : State} (h : StoresFrame s t) (hwf : s.mem.wf Config.memSize = true) :
    t.mem.wf Config.memSize = true := by
  obtain h | ⟨a, bs, hfit, h⟩ := h.mem <;> rw [h]
  · exact hwf
  · exact Memory.wf_writeBytes hfit hwf

theorem StoresFrame.fb_wf {s t : State} (h : StoresFrame s t) (hwf : s.fb.wf Config.fbSize = true) :
    t.fb.wf Config.fbSize = true := by
  obtain h | h | ⟨x, y, n, h⟩ := h.fb <;> rw [h]
  · exact hwf
  · rfl
  · exact drawn_fb_wf x y n hwf

/-- R142 (c). -/
theorem StoresFrame.cellsAreBits {s t : State} (h : StoresFrame s t) (hwf : s.fb.wf Config.fbSize = true)
    (hbits : s.CellsAreBits) : t.CellsAreBits := by
  obtain h | h | ⟨x, y, n, rfl⟩ := h.fb
  · exact fun j hj => by rw [h]; exact hbits j hj
  · exact fun j _ => .inl (by rw [h]; rfl)
  · exact drawn_cellsAreBits x y n hwf hbits

/-! ## The invariant -/

/-- With no fatal mark the invariant is about the stores alone. -/
theorem inv_of_unfaulted {s : State} (hfault : s.fault = none) (hmem : s.mem.wf Config.memSize = true)
    (hfb : s.fb.wf Config.fbSize = true) : s.Inv := ⟨hmem, hfb, by rw [State.faultCoherent, hfault]⟩

/-- The mark raised where no word can be fetched is coherent. -/
theorem raiseFetchOutOfBounds_inv {s : State} (hbound : s.fetchInBounds = false) (hmem : s.mem.wf Config.memSize = true)
    (hfb : s.fb.wf Config.fbSize = true) : s.raiseFetchOutOfBounds.Inv := by
  have hbound' : s.raiseFetchOutOfBounds.fetchInBounds = false := hbound
  exact ⟨hmem, hfb, by simp [State.faultCoherent, hbound']⟩

/-- The invariant speaks of memory, the frame buffer, the fatal mark and `pc` only. -/
theorem inv_congr {s t : State} (hmem : t.mem = s.mem) (hfb : t.fb = s.fb) (hfault : t.fault = s.fault)
    (hpc : t.pc = s.pc) : t.Inv ↔ s.Inv := by
  simp only [State.Inv, State.faultCoherent, State.fetchInBounds, hmem, hfb, hfault, hpc]

theorem HostFrame.inv {s t : State} (h : HostFrame s t) : t.Inv ↔ s.Inv := inv_congr h.mem h.fb h.fault h.pc

/-- Settles O10: the stores by what an instruction can do to them; the mark since only a fetch beyond memory sets it. -/
theorem stepKeepsInvariant : Obligations.StepKeepsInvariant := by
  intro s t hinv h
  obtain ⟨hmem, hfb, -⟩ := (deliver_frame s).inv.mpr hinv
  have hfault := (deliver_frame s).fault
  obtain ⟨_, h'⟩ | ⟨_, hbound, h'⟩ | ⟨hnone, _, ⟨i, _, h'⟩ | ⟨_, _, h'⟩⟩ := step_cases s <;>
    rw [h] at h'
  · cases h'
  · cases h'
    exact raiseFetchOutOfBounds_inv hbound hmem hfb
  · have hstores := StoresFrame.of_exec h'.symm
    exact inv_of_unfaulted ((ExecFrame.of_exec h'.symm).fault.trans (hfault.trans hnone)) (hstores.mem_wf hmem)
      (hstores.fb_wf hfb)
  · cases h'
    exact inv_of_unfaulted (hfault.trans hnone) hmem hfb

/-- Settles O13: of what a step can do, only the instruction writes cells. -/
theorem stepKeepsCellsBits : Obligations.StepKeepsCellsBits := by
  intro s t ⟨_, hwf, _⟩ hbits h
  have hfb := (deliver_frame s).fb
  have hbits' : s.deliver.CellsAreBits := fun j hj => by rw [hfb]; exact hbits j hj
  obtain rfl | ⟨i, _, hexec⟩ | rfl := step_next_cases h
  · exact hbits'
  · exact (StoresFrame.of_exec hexec).cellsAreBits (s := s.deliver.advance) (by rwa [advance_fb, hfb]) hbits'
  · exact hbits'

/-! ## Reset and the host's moves -/

/-- Settles O11: RESET leaves no mark and the empty memory, which is canonical. -/
theorem resetMeetsInvariant : Obligations.ResetMeetsInvariant :=
  ⟨inv_of_unfaulted rfl reset_mem_wf rfl, fun _ _ => .inl rfl, fun _ _ _ _ hfb => inv_of_unfaulted rfl rfl hfb⟩

/-- Settles O12: an event writes nothing the invariant speaks of, RESET writes what it asks for, and LOAD is a block
write inside memory. -/
theorem hostMovesKeepInvariant : Obligations.HostMovesKeepInvariant := by
  intro s hinv
  have ⟨hmem, hfb, hcoherent⟩ := hinv
  refine ⟨fun e => (hostEvent_frame s e).inv.mpr hinv, (deliver_frame s).inv.mpr hinv,
    fun qs cl o => inv_of_unfaulted rfl rfl hfb, fun bytes => ⟨?_, hfb, hcoherent⟩⟩
  exact Memory.wf_writeBytes (progBase_add_length_take_le bytes) hmem

end Sys2Proof.Machine
end

section
/-! SUPPORT. The step and the host's moves (40_fetch_dispatch.md, 60_exceptions.md): what a step is where a word can be
fetched and where none can, when it answers, what it does not read (`clipping`, the DIAG port), the end at a jump to
itself, and the effects of events and RESET. -/

namespace Sys2Proof.Machine

open Sys2Proof.Claims

/-! ## What a step is (R80 to R84) -/

theorem advance_deliver (s : State) : s.deliver.advance = { s.deliver with pc := s.pc + 2 } := by
  rw [State.advance, (deliver_frame s).pc]

theorem fetchWord_eq_of_bytes {s : State} {w : Word}
    (hw : w.toNat = (s.mem.read s.pc.toNat).toNat * 256 + (s.mem.read (s.pc.toNat + 1)).toNat) : s.fetchWord = w :=
  BitVec.eq_of_toNat_eq (by rw [State.fetchWord, toNat_wordOfBytes, hw])

theorem step_of_unrecognized {s : State} {e : Unrecognized} (hfault : s.fault = none) (hbound : s.fetchInBounds = true)
    (he : decode s.fetchWord = .error e) :
    step s = .next (s.deliver.advance.report .unrecognizedOpcode s.fetchWord) := by
  simp [step, cycle, execWord, execUnrecognized, hfault, hbound, he]

theorem step_of_not_fetchInBounds {s : State} (hfault : s.fault = none) (hbound : s.fetchInBounds = false) :
    step s = .next s.deliver.raiseFetchOutOfBounds := by
  simp [step, cycle, hfault, hbound]

/-- Settles O6: the two bytes are the fetched word, and the planned events write neither `pc` nor memory. -/
theorem stepRunsDecodedInstruction : Obligations.StepRunsDecodedInstruction := by
  intro s w i hfault hbound hw hi
  obtain rfl := fetchWord_eq_of_bytes hw
  refine ⟨?_, (deliver_frame s).pc, (deliver_frame s).mem, deliver_of_no_schedule⟩
  rw [step_of_decode hfault (decide_eq_true hbound) hi, advance_deliver]

/-- Settles O7: the report is made with `pc` at `p + 2`, so it names `p`. -/
theorem unrecognizedWordIsReportedAndPassed : Obligations.UnrecognizedWordIsReportedAndPassed := by
  intro s w e hfault hbound hw he
  obtain rfl := fetchWord_eq_of_bytes hw
  rw [step_of_unrecognized hfault (decide_eq_true hbound) he, advance_deliver, report_of_pc (p := s.pc) rfl,
    (deliver_frame s).diag]

/-- Settles O8: `pc` at 4095 or above is what the fetch bound refuses. -/
theorem fetchBeyondMemoryIsFatal : Obligations.FetchBeyondMemoryIsFatal := by
  intro s hfault hpc
  have hbound : s.fetchInBounds = false := decide_eq_false (by unfold Config.memSize; omega)
  rw [step_of_not_fetchInBounds hfault hbound, ← (deliver_frame s).pc]
  rfl

/-- Settles O9: without a mark each branch of the step answers, since every instruction does. -/
theorem stepStopsExactlyWhenFaulted : Obligations.StepStopsExactlyWhenFaulted := by
  intro s
  refine ⟨fun hfault => ?_, fun hfault => ?_, fun e => (hostEvent_frame s e).fault, fun _ _ _ => rfl⟩
  · obtain ⟨hne, _⟩ | ⟨_, _, h⟩ | ⟨_, _, ⟨i, _, h⟩ | ⟨_, _, h⟩⟩ := step_cases s
    · exact absurd hfault hne
    · exact ⟨_, h⟩
    · obtain ⟨t, ht, -⟩ := exec_frame i s.deliver.advance
      exact ⟨t, h.trans ht⟩
    · exact ⟨_, h⟩
  · obtain ⟨_, h⟩ | ⟨hnone, _⟩ | ⟨hnone, _⟩ := step_cases s
    · exact h
    · exact absurd hnone hfault
    · exact absurd hnone hfault

/-! ## The strap `clipping` (R23) -/

theorem unnoticed_clipping {i : Instr} (h : ∀ x y n, i ≠ .drw x y n) (f : Bool → Bool) :
    Recast.Unnoticed { clipping := f } i := by
  cases i
  case drw x y n => exact absurd rfl (h x y n)
  case ldStVx | shr | shl => rfl
  all_goals trivial

/-- Settles O15: no instruction and no event writes the strap, and all but `DXYN` do not notice it. -/
theorem clippingReadByDrawOnly : Obligations.ClippingReadByDrawOnly := by
  refine ⟨fun s t h => ?_, fun s e => (hostEvent_frame s e).clipping,
    fun i s c h => exec_recast (unnoticed_clipping h fun _ => c) s⟩
  have hdeliver := (deliver_frame s).clipping
  obtain rfl | ⟨i, _, hexec⟩ | rfl := step_next_cases h
  · exact hdeliver
  · exact (ExecFrame.of_exec hexec).clipping.trans hdeliver
  · exact hdeliver

/-! ## The DIAG port (R28) -/

/-- The state with earlier records put before those it holds. -/
def earlierRecords (d : List Report) : Recast where
  diag rs := d ++ rs
  diag_append rs r := (List.append_assoc d rs [r]).symm

theorem unnoticed_earlierRecords (d : List Report) (i : Instr) : (earlierRecords d).Unnoticed i := by
  cases i
  case ldStVx | shr | shl | drw => rfl
  all_goals trivial

theorem hostEvents_earlierRecords (d : List Report) (es : List HostEvent) (s : State) :
    es.foldl State.hostEvent ((earlierRecords d).apply s) = (earlierRecords d).apply (es.foldl State.hostEvent s) :=
  List.foldl_hom (earlierRecords d).apply fun u e => by cases e <;> rfl

theorem deliver_earlierRecords (d : List Report) (s : State) :
    ((earlierRecords d).apply s).deliver = (earlierRecords d).apply s.deliver := by
  have hschedule : ((earlierRecords d).apply s).schedule = s.schedule := rfl
  simp only [State.deliver, hschedule]
  split
  case h_1 => rfl
  case h_2 es rest _ => exact hostEvents_earlierRecords d es { s with schedule := rest }

/-- A step neither reads nor drops the records that stood on the port before it. -/
theorem step_earlierRecords (d : List Report) (s : State) :
    step ((earlierRecords d).apply s) = mapNext (earlierRecords d).apply (step s) := by
  have hfault : ((earlierRecords d).apply s).fault = s.fault := rfl
  simp only [step, hfault, deliver_earlierRecords]
  split
  · rfl
  · have hcycle (u : State) : cycle ((earlierRecords d).apply u) =
        if u.fetchInBounds then execWord u.fetchWord ((earlierRecords d).apply u.advance)
        else .next ((earlierRecords d).apply u.raiseFetchOutOfBounds) := rfl
    rw [hcycle, cycle, execWord, execWord]
    split_ifs
    · cases decode s.deliver.fetchWord with
      | ok i => exact exec_recast (unnoticed_earlierRecords d i) _
      | error e => simp only [execUnrecognized, Recast.report_apply, mapNext_next]
    · rfl

theorem step_diag {s t : State} (h : step s = .next t) : t.diag = s.diag ∨ ∃ r, t.diag = s.diag ++ [r] := by
  have hdeliver := (deliver_frame s).diag
  obtain rfl | ⟨i, _, hexec⟩ | rfl := step_next_cases h
  · exact .inl hdeliver
  · have hdiag := (StoresFrame.of_exec hexec).diag
    rwa [advance_diag, hdeliver] at hdiag
  · exact .inr ⟨_, by rw [report_diag, advance_diag, hdeliver]⟩

/-- Settles O19: a step from any records is the step from none, with those records put before what it reports. -/
theorem diagIsNeverReadBack : Obligations.DiagIsNeverReadBack := by
  intro s t h
  have hfrom (d : List Report) : step { s with diag := d } =
      mapNext (earlierRecords d).apply (step { s with diag := [] }) := by
    rw [← step_earlierRecords]
    simp only [earlierRecords, Recast.apply, List.append_nil, id]
  cases hempty : step { s with diag := [] } with
  | fault | refused =>
    have hs := hfrom s.diag
    rw [hempty] at hs
    cases h.symm.trans hs
  | next u =>
    have hs := hfrom s.diag
    rw [hempty] at hs
    obtain rfl : t = (earlierRecords s.diag).apply u := Host.Outcome.next.inj (h.symm.trans hs)
    refine ⟨u.diag, ?_, rfl, fun d => by rw [hfrom d, hempty]; rfl⟩
    obtain hdiag | ⟨r, hdiag⟩ := step_diag hempty <;> simp [hdiag]

/-! ## The jump to itself (R86 a) -/

theorem toNat_formatA (op : Nibble) (nnn : Addr12) : (formatA op nnn).toNat = op.toNat * 4096 + nnn.toNat := by
  have h : (formatA op nnn).toNat = op.toNat <<< 12 ||| nnn.toNat := BitVec.toNat_append op nnn
  rw [h, ← Nat.shiftLeft_add_eq_or_of_lt nnn.isLt, Nat.shiftLeft_eq]

theorem toNat_encode_jp (nnn : Addr12) : (encode (.jp nnn)).toNat = 0x1000 + nnn.toNat := toNat_formatA 0x1 nnn

theorem decode_of_atSelfJump {s : State} (h : s.AtSelfJump) :
    decode s.fetchWord = .ok (.jp (BitVec.ofNat 12 s.pc.toNat)) := by
  obtain ⟨hpc, -, hword⟩ := h
  have hencode : s.fetchWord = encode (.jp (BitVec.ofNat 12 s.pc.toNat)) := by
    apply BitVec.eq_of_toNat_eq
    rw [hword, toNat_encode_jp, BitVec.toNat_ofNat, BitVec.toNat_ofNat]
    omega
  rw [hencode, decode_encode]

theorem zextAddr_ofNat_pc {s : State} (hpc : s.pc.toNat < 0x1000) : zextAddr (BitVec.ofNat 12 s.pc.toNat) = s.pc :=
  BitVec.eq_of_toNat_eq (by rw [toNat_zextAddr, BitVec.toNat_ofNat, Nat.mod_eq_of_lt hpc])

/-- Settles O59: the jump takes back the fetch's advance, and no planned event writes `pc` or memory. -/
theorem selfJumpIsAnEnd : Obligations.SelfJumpIsAnEnd := by
  intro s hfault hself
  have hself' : s.deliver.AtSelfJump := by
    simpa only [State.AtSelfJump, deliver_fetchInBounds, deliver_fetchWord, (deliver_frame s).pc] using hself
  refine ⟨?_, hself'⟩
  calc step s
      _ = exec (.jp (BitVec.ofNat 12 s.pc.toNat)) s.deliver.advance :=
        step_of_decode hfault hself.2.1 (decode_of_atSelfJump hself)
      _ = .next (s.deliver.advance.jump s.deliver.pc) := by
        rw [← (deliver_frame s).pc]
        exact congrArg (fun a => Host.Outcome.next (s.deliver.advance.jump a)) (zextAddr_ofNat_pc hself'.1)
      _ = .next s.deliver := rfl

/-! ## Host events and RESET (R171 to R173, R190) -/

theorem countDown_eq (b : Byte) : countDown b = BitVec.ofNat 8 (b.toNat - 1) := by
  unfold countDown
  split
  case isTrue h => rw [h]; rfl
  case isFalse h => exact BitVec.eq_of_toNat_eq (by bv_omega)

theorem countDown_ofNat_sub (b : Byte) (k : Nat) :
    countDown (BitVec.ofNat 8 (b.toNat - k)) = BitVec.ofNat 8 (b.toNat - (k + 1)) := by
  have hlt : b.toNat - k < 2 ^ 8 := (Nat.sub_le _ _).trans_lt b.isLt
  rw [countDown_eq, BitVec.toNat_ofNat, Nat.mod_eq_of_lt hlt, Nat.sub_sub]

/-- Settles O56: by induction on the number of ticks, each of which takes one off or leaves 0. -/
theorem hostEventsEffects : Obligations.HostEventsEffects := by
  refine ⟨fun s k => ?_, fun _ _ => rfl, fun _ => rfl⟩
  induction k with
  | zero => simp
  | succ k ih =>
    rw [Function.iterate_succ_apply', ih]
    simp only [State.hostEvent, State.tick, countDown_ofNat_sub]

/-- Settles O57: RESET names every one of these values, of a new machine and of a running one. -/
theorem resetValues : Obligations.ResetValues := by
  rintro qs cl o fb s (rfl | ⟨u, rfl, rfl⟩)
  · exact ⟨rfl, Memory.read_nil, rfl, rfl, rfl, rfl, rfl, rfl, rfl, rfl, rfl, rfl, rfl, rfl⟩
  · exact ⟨rfl, Memory.read_nil, rfl, rfl, rfl, rfl, rfl, rfl, rfl, rfl, rfl, rfl, rfl, rfl⟩

end Sys2Proof.Machine
end

section
/-! SUPPORT. The rest of the control-flow unit (41_control_flow.md): the offset jump, the skips on registers and keys,
and chains of calls and returns over the stack of 16 entries (R92, R93, R101). -/

namespace Sys2Proof.Machine

open Sys2Proof.Claims

/-! ## The offset jump (R91) -/

/-- Neither addend is large enough for the 16-bit sum to wrap. -/
theorem toNat_jumpSum (nnn : Addr12) (b : Byte) : (jumpSum nnn b).toNat = nnn.toNat + b.toNat := by
  rw [jumpSum, BitVec.toNat_ofNat]
  omega

/-- Settles O28: `BNNN` is one jump, to a sum that 16 bits hold. -/
theorem jumpOffsetAddsRegisterZero : Obligations.JumpOffsetAddsRegisterZero :=
  fun nnn s => ⟨s.jump (jumpSum nnn (s.readV 0)), rfl, toNat_jumpSum nnn (s.readV 0), rfl, rfl, rfl⟩

/-! ## Skips on registers and keys (R96 to R99) -/

/-- Settles O34: the two skips compare the two registers and skip in opposite cases; the low nibble is no operand. -/
theorem registerSkips : Obligations.RegisterSkips := by
  intro x y n s p hpc
  refine ⟨⟨s.skipIf (s.readV x == s.readV y), rfl, ?_⟩, ⟨s.skipIf (s.readV x != s.readV y), rfl, ?_⟩⟩
  · rw [skipIf_pc_of_pc hpc]; simp [BitVec.toNat_inj]
  · rw [skipIf_pc_of_pc hpc]; simp [BitVec.toNat_inj]

/-- The compare is of the zero-extended code with all 8 bits (D13). -/
theorem keyIs_eq_true_iff (s : State) (b : Byte) :
    keyIs s b = true ↔ ∃ k, s.key = some k ∧ k.toNat = b.toNat := by
  unfold keyIs
  cases s.key with
  | none => simp
  | some k => rw [beq_iff_eq, ← BitVec.toNat_inj, toNat_zextKey]; simp

theorem not_exists_key_iff (s : State) (b : Byte) : (¬∃ k, s.key = some k ∧ k.toNat = b.toNat) ↔
    s.key = none ∨ ∃ k, s.key = some k ∧ k.toNat ≠ b.toNat := by
  cases s.key <;> simp

/-- Settles O35: both skips ask whether the latched key is `V[X]`, and no key counts as one that is not. -/
theorem keySkips : Obligations.KeySkips := by
  intro x s p hpc
  rw [← not_exists_key_iff, not_not, ← keyIs_eq_true_iff]
  refine ⟨⟨s.skipIf (keyIs s (s.readV x)), rfl, ?_⟩, ⟨s.skipIf (!keyIs s (s.readV x)), rfl, ?_⟩⟩
  · rw [skipIf_pc_of_pc hpc]
    exact ⟨fun h => if_pos h, fun h => if_neg h⟩
  · rw [skipIf_pc_of_pc hpc]
    exact ⟨fun h => if_pos (by simpa using h), fun h => if_neg (by simpa using h)⟩

/-! ## Chains of calls (R92, R101) -/

section
variable (s : State) (c : Word × Addr12)

theorem afterCall_sp : (afterCall s c).sp = s.sp + 1 := rfl

theorem afterCall_diag : (afterCall s c).diag = s.diag := rfl

theorem afterCall_fault : (afterCall s c).fault = s.fault := rfl

theorem readStack_afterCall (j : Nibble) : (afterCall s c).readStack j = if j = s.sp then c.1 else s.readStack j :=
  readStack_push (s.jump c.1) c.1 j

end

theorem calls_append (s : State) (cs : List (Word × Addr12)) (c : Word × Addr12) :
    (cs ++ [c]).foldl afterCall s = afterCall (cs.foldl afterCall s) c := by
  rw [List.foldl_append]; rfl

theorem calls_sp (s : State) (cs : List (Word × Addr12)) :
    (cs.foldl afterCall s).sp = s.sp + BitVec.ofNat 4 cs.length := by
  induction cs using List.reverseRecOn with
  | nil => simp
  | append_singleton cs c ih =>
    rw [calls_append, afterCall_sp, ih, List.length_append, BitVec.add_assoc, BitVec.ofNat_add]; rfl

theorem calls_noException (s : State) (cs : List (Word × Addr12)) : NoException s (cs.foldl afterCall s) := by
  induction cs using List.reverseRecOn with
  | nil => exact ⟨rfl, rfl⟩
  | append_singleton cs c ih =>
    rw [calls_append]
    exact ⟨(afterCall_diag ..).trans ih.1, (afterCall_fault ..).trans ih.2⟩

/-- The return address of a call stands in its entry until the 16th call after it comes round to that entry. -/
theorem readStack_calls (s : State) (cs : List (Word × Addr12)) {k : Nat} (hk : k < cs.length)
    (hlen : cs.length ≤ k + 16) :
    (cs.foldl afterCall s).readStack (s.sp + BitVec.ofNat 4 k) = (cs.map Prod.fst).getD k 0 := by
  induction cs using List.reverseRecOn with
  | nil => cases hk
  | append_singleton cs c ih =>
    simp only [List.length_append, List.length_singleton] at hk hlen
    rw [calls_append, readStack_afterCall, calls_sp]
    by_cases hlast : k = cs.length
    · subst hlast; simp
    · have hne : s.sp + BitVec.ofNat 4 k ≠ s.sp + BitVec.ofNat 4 cs.length := by
        rw [ne_eq, BitVec.add_right_inj, ← BitVec.toNat_inj, BitVec.toNat_ofNat, BitVec.toNat_ofNat]
        omega
      rw [if_neg hne, ih (by omega) (by omega), List.map_append, List.getD_append _ _ _ _ (by simp; omega)]

/-- Settles O32: the 17th call comes round to the entry of the first, and to no other. -/
theorem seventeenthCallOverwritesOldest : Obligations.SeventeenthCallOverwritesOldest := by
  intro s cs hlen
  have hentry {k : Nat} (h1 : 1 ≤ k) (h17 : k < 17) := readStack_calls s cs (k := k) (by omega) (by omega)
  have hsp := calls_sp s cs
  rw [hlen] at hsp
  obtain ⟨hdiag, hfault⟩ := calls_noException s cs
  refine ⟨?_, fun k h1 h16 => hentry h1 (by omega), hsp, hfault, hdiag⟩
  have h16 := hentry (k := 16) (by decide) (by decide)
  rwa [show BitVec.ofNat 4 16 = 0#4 from rfl, BitVec.add_zero] at h16

/-! ## Chains of returns (R93) -/

theorem returns_stack (k : Nat) (s : State) : (afterReturn^[k] s).stack = s.stack := by
  induction k with
  | zero => rfl
  | succ k ih => rw [Function.iterate_succ_apply']; exact ih

theorem returns_sp (k : Nat) (s : State) : (afterReturn^[k] s).sp = s.sp - BitVec.ofNat 4 k := by
  induction k with
  | zero => simp
  | succ k ih =>
    rw [Function.iterate_succ_apply', BitVec.ofNat_add, ← BitVec.sub_sub, ← ih]; rfl

/-- A return goes where the entry says that `sp` names after it. -/
theorem returns_pc (k : Nat) (s : State) :
    (afterReturn^[k + 1] s).pc = s.readStack (s.sp - BitVec.ofNat 4 (k + 1)) := by
  have hpc : (afterReturn^[k + 1] s).pc = (afterReturn^[k] s).readStack (afterReturn^[k + 1] s).sp := by
    rw [Function.iterate_succ_apply']; rfl
  rw [hpc, returns_sp, readStack_congr (returns_stack k s)]

/-- Settles O31: the returns go down the entries that the calls went up. -/
theorem nestedCallsReturnInReverse : Obligations.NestedCallsReturnInReverse := by
  intro s cs hlen
  refine ⟨fun k hk => ?_, ?_⟩
  · have hentry : s.sp + BitVec.ofNat 4 cs.length - BitVec.ofNat 4 (k + 1) =
        s.sp + BitVec.ofNat 4 (cs.length - (k + 1)) := by
      rw [← BitVec.toNat_inj]
      simp only [BitVec.toNat_sub, BitVec.toNat_add, BitVec.toNat_ofNat]
      omega
    rw [returns_pc, calls_sp, hentry, readStack_calls s cs (by omega) (by omega), List.map_reverse,
      List.getD_reverse k (by simpa using hk), List.length_map, Nat.sub_sub, Nat.add_comm k]
  · rw [returns_sp, calls_sp, BitVec.add_sub_cancel]

end Sys2Proof.Machine
end

section
/-! SUPPORT. The rest of the ALU (42_alu.md R115 to R120): what a result and a flag leave in the register file, the
values of the sum, the differences and the shifts as numbers and as bits, and the list of what writes VF (10_state.md
R33). -/

namespace Sys2Proof.Machine

open Sys2Proof.Claims

/-! ## A result and a flag (R110) -/

section
variable (s : State) (x : Reg) (b : Byte) (f : Bool)

theorem flag_writeResultAndFlag : (s.writeResultAndFlag x b f).readV 15 = if f then 1 else 0 := by
  rw [readV_writeResultAndFlag, if_pos rfl]

theorem result_writeResultAndFlag (hx : x ≠ 15) : (s.writeResultAndFlag x b f).readV x = b := by
  rw [readV_writeResultAndFlag, if_neg hx, if_pos rfl]

end

/-! ## Sum and differences (R115, R116, R118, R151) -/

section
variable (a b : Byte)

theorem toNat_addResult : (addResult a b).toNat = (a.toNat + b.toNat) % 256 := BitVec.toNat_ofNat ..

theorem toNat_subResult : ((subResult a b).toNat : Int) = (a.toNat - b.toNat : Int) % 256 := by
  rw [subResult, BitVec.toNat_ofNat]
  omega

/-- The carry is the part of the sum that 8 bits do not hold. -/
theorem toNat_carry : (if addCarry a b then (1 : Byte) else 0).toNat = (a.toNat + b.toNat) / 256 := by
  simp only [addCarry, decide_eq_true_eq]
  split <;> simp <;> omega

theorem carry_eq : (if addCarry a b then (1 : Byte) else 0) = if a.toNat + b.toNat > 255 then 1 else 0 := by
  simp only [addCarry, decide_eq_true_eq, gt_iff_lt]

theorem notBorrow_eq : (if subNotBorrow a b then (1 : Byte) else 0) = if a.toNat ≥ b.toNat then 1 else 0 := by
  simp only [subNotBorrow, decide_eq_true_eq, ge_iff_le]

theorem notBorrow_eq_ite_lt : (if subNotBorrow a b then (1 : Byte) else 0) = if a.toNat < b.toNat then 0 else 1 := by
  simp only [subNotBorrow, decide_eq_true_eq, ← Nat.not_lt, ite_not]

end

/-- Settles O38: the sum modulo 256 and what is left of it; the flag is written last. -/
theorem additionAndCarry : Obligations.AdditionAndCarry := by
  intro x y s
  refine ⟨s.writeResultAndFlag x (addResult (s.readV x) (s.readV y)) (addCarry (s.readV x) (s.readV y)), rfl,
    fun hx => ?_, ?_⟩
  · rw [result_writeResultAndFlag s x _ _ hx, toNat_addResult]
  · rw [flag_writeResultAndFlag, toNat_carry]

/-- Settles O39: the two subtractions are one, with minuend and subtrahend exchanged. -/
theorem subtractionsAndNotBorrow : Obligations.SubtractionsAndNotBorrow := by
  have hsub (s : State) (x : Reg) (a b : Byte) :
      (x ≠ 15 → (((s.writeResultAndFlag x (subResult a b) (subNotBorrow a b)).readV x).toNat : Int) =
        (a.toNat - b.toNat : Int) % 256) ∧
      (s.writeResultAndFlag x (subResult a b) (subNotBorrow a b)).readV 15 = if a.toNat < b.toNat then 0 else 1 := by
    refine ⟨fun hx => ?_, ?_⟩
    · rw [result_writeResultAndFlag s x _ _ hx, toNat_subResult]
    · rw [flag_writeResultAndFlag, notBorrow_eq_ite_lt]
  intro x y s
  exact ⟨⟨_, rfl, hsub s x (s.readV x) (s.readV y)⟩, ⟨_, rfl, hsub s x (s.readV y) (s.readV x)⟩⟩

/-- Settles O42: one register write, whose value is reduced as the sum is. -/
theorem immediateAddition : Obligations.ImmediateAddition := by
  intro x nn s
  refine ⟨s.writeV x (addResult (s.readV x) nn), rfl, ?_, noFlagBut_writeV x s _, noException_writeV x s _⟩
  rw [readV_writeV_self, toNat_addResult]

/-! ## Shifts (R117, R119) -/

theorem shiftSource_eq (s : State) (x y : Reg) : shiftSource s x y = s.readV (if s.quirkShift then x else y) :=
  (apply_ite s.readV _ _ _).symm

section
variable (b : Byte)

theorem shrResult_eq : shrResult b = b >>> 1 :=
  BitVec.eq_of_toNat_eq (by simp [shrResult, Nat.shiftRight_eq_div_pow]; omega)

theorem shlResult_eq : shlResult b = b <<< 1 :=
  BitVec.eq_of_toNat_eq (by simp [shlResult, Nat.shiftLeft_eq])

theorem toNat_shrFlag : (if shrFlag b then (1 : Byte) else 0).toNat = b.toNat % 2 := by
  rw [shrFlag, BitVec.getLsbD, Nat.testBit_zero]
  split <;> simp_all

theorem toNat_shlFlag : (if shlFlag b then (1 : Byte) else 0).toNat = b.toNat / 128 := by
  rw [shlFlag, BitVec.getLsbD, Nat.testBit_eq_decide_div_mod_eq]
  split <;> simp_all <;> omega

end

/-- Settles O40: bit by bit the results are the shifts of bit vectors; the flag is the bit that leaves. -/
theorem shiftsByOne : Obligations.ShiftsByOne := by
  rintro x y s b rfl
  rw [← shiftSource_eq]
  refine ⟨⟨s.writeResultAndFlag x (shrResult (shiftSource s x y)) (shrFlag (shiftSource s x y)), rfl,
      fun hx => ?_, flag_writeResultAndFlag ..⟩,
    ⟨s.writeResultAndFlag x (shlResult (shiftSource s x y)) (shlFlag (shiftSource s x y)), rfl,
      fun hx => ?_, flag_writeResultAndFlag ..⟩⟩
  · rw [result_writeResultAndFlag s x _ _ hx, shrResult_eq]
    exact ⟨by simp, fun k _ => by rw [BitVec.getLsbD_ushiftRight, Nat.add_comm]⟩
  · rw [result_writeResultAndFlag s x _ _ hx, shlResult_eq]
    exact ⟨by simp, fun k hk => by simp; omega⟩

/-! ## What writes VF (R33) -/

/-- Of the table of frames: an instruction that is not listed may write VF only where its X field names it. -/
theorem mayWrite_flag {i : Instr} (s : State) (hflag : writesFlag i = false) (hx : xOf i ≠ some 15) :
    (mayWrite s i).regs 15 = false := by
  cases i
  case addVy | sub | subn | shr | shl | drw => cases hflag
  case ldNn x _ | addNn x _ | ldVy x _ | orVy x _ | andVy x _ | xorVy x _ | ldVxDt x | ldVxK x =>
    exact beq_false_of_ne fun h => hx (congrArg some h.symm)
  case load x =>
    refine decide_eq_false fun h => hx (congrArg some (BitVec.eq_of_toNat_eq ?_))
    exact Nat.le_antisymm (Nat.le_of_lt_succ x.isLt) h
  all_goals rfl

theorem flag_of_exec_drw {x y : Reg} {n : Nibble} {s t : State} (hwf : s.fb.wf Config.fbSize = true)
    (hbits : s.CellsAreBits) (h : exec (.drw x y n) s = .next t) :
    (s.ireg.toNat + n.toNat ≤ 4096 ∧ DrawHits s x y n 1 → t.readV 15 = 1) ∧
    (¬(s.ireg.toNat + n.toNat ≤ 4096 ∧ DrawHits s x y n 1) → t.readV 15 = 0) := by
  by_cases hfit : s.ireg.toNat + n.toNat ≤ 4096
  · cases (exec_drw_of_fits x y hfit).symm.trans h
    exact ⟨fun hhit => drawn_flag_of_hits x y n hwf hbits hhit.2,
      fun hhit => drawn_flag_of_not_hits x y n hwf hbits fun hhit' => hhit ⟨hfit, hhit'⟩⟩
  · cases (exec_drw_of_not_fits x y (Nat.lt_of_not_le hfit)).symm.trans h
    exact ⟨fun hhit => absurd hhit.1 hfit, fun _ => readV_writeV_self s 15 0⟩

/-- Settles O17: five write a result and then the flag, the draw as it collides, and the table of frames answers for all
the others. -/
theorem flagWrittenOnlyAsListed : Obligations.FlagWrittenOnlyAsListed := by
  refine ⟨fun x y s t h => ?_, fun x y s t h => ?_, fun x y s t h => ?_, fun x y s t h => ?_, fun x y s t h => ?_,
    fun x y n s t ⟨_, hwf, _⟩ hbits h => flag_of_exec_drw hwf hbits h,
    fun i s t h hflag hx => (unchanged_of_exec h).1 15 (mayWrite_flag s hflag hx)⟩
  · cases h; rw [flag_writeResultAndFlag, carry_eq]
  · cases h; rw [flag_writeResultAndFlag, notBorrow_eq]
  · cases h; rw [flag_writeResultAndFlag, notBorrow_eq]
  · cases h; rw [flag_writeResultAndFlag, toNat_shrFlag, shiftSource_eq]
  · cases h; rw [flag_writeResultAndFlag, toNat_shlFlag, shiftSource_eq]

end Sys2Proof.Machine
end

section
/-! SUPPORT. The memory-transfer unit (43_memory_transfer.md): each of the three transfers is one block write or block
of register writes where it fits (R135 to R137), a report where it does not (R138); what `FX55` stored, `FX65` and the
fetch read back. -/

namespace Sys2Proof.Machine

open Sys2Proof.Claims

/-! ## The timers (R131 to R133) -/

/-- Settles O43: three single writes. -/
theorem timerTransfers : Obligations.TimerTransfers := by
  intro x s
  exact ⟨⟨s.writeV x s.dt, rfl, readV_writeV_self .., rfl⟩, ⟨s.writeDt (s.readV x), rfl, rfl, rfl⟩,
    ⟨s.writeSt (s.readV x), rfl, rfl, rfl⟩⟩

/-! ## Transfers that fit, and transfers that do not (R138) -/

section
variable {x : Reg} {s : State}

theorem exec_bcd_of_fits (h : s.ireg.toNat + 2 < 4096) :
    exec (.bcd x) s = .next (s.storeBytes s.ireg.toNat (decimalDigits (s.readV x))) :=
  if_pos (decide_eq_true h)

theorem exec_store_of_fits (h : s.ireg.toNat + x.toNat < 4096) :
    exec (.store x) s = .next (s.storeBytes s.ireg.toNat (s.firstRegs (x.toNat + 1))) :=
  if_pos (decide_eq_true h)

theorem exec_load_of_fits (h : s.ireg.toNat + x.toNat < 4096) :
    exec (.load x) s = .next (s.writeRegsFrom 0 (s.mem.readBytes s.ireg.toNat (x.toNat + 1))) :=
  if_pos (decide_eq_true h)

/-- The sum is taken without wrap, so a block beyond memory is never inside it. -/
theorem not_blockInMemory {k : Nat} (h : 4096 ≤ s.ireg.toNat + k) : ¬blockInMemory (effAddr s 0) (k + 1) = true :=
  fun hblock => absurd (of_decide_eq_true hblock) (Nat.not_le.mpr (Nat.lt_succ_of_le h))

end

/-- Settles O48: a refused transfer is a report, made with `pc` at `p + 2`. -/
theorem transferOutsideMemoryIsRefused : Obligations.TransferOutsideMemoryIsRefused := by
  intro x s p hpc
  refine ⟨fun h => ?_, fun h => ⟨?_, ?_⟩⟩ <;> rw [← report_of_pc hpc] <;> exact if_neg (not_blockInMemory h)

/-! ## What the transfers leave (R135 to R137) -/

/-- Settles O45: the three quotients are decimal digits of a number below 256, and each fits a byte. -/
theorem bcdStoresDecimalDigits : Obligations.BcdStoresDecimalDigits := by
  intro x s ⟨hwf, _, _⟩ hfit
  refine ⟨_, exec_bcd_of_fits hfit, ?_, rfl⟩
  have hread {k : Nat} (hk : k < 3) : (s.storeBytes s.ireg.toNat (decimalDigits (s.readV x))).mem.read
      (s.ireg.toNat + k) = (decimalDigits (s.readV x)).getD k 0 := by
    rw [storeBytes_mem, Memory.read_writeBytes (bs := decimalDigits (s.readV x)) hfit hwf,
      if_pos ⟨Nat.le_add_right .., Nat.add_lt_add_left hk _⟩, Nat.add_sub_cancel_left]
  have hh := hread (k := 0) (by decide)
  rw [Nat.add_zero] at hh
  have hlt := (s.readV x).isLt
  simp only [hh, hread (k := 1) (by decide), hread (k := 2) (by decide)]
  simp only [decimalDigits, List.getD_cons_zero, List.getD_cons_succ, BitVec.toNat_ofNat]
  omega

section
variable {x : Reg} {s : State}

/-- What `FX55` leaves at each place of its block. -/
theorem read_stored {k : Nat} (hwf : s.mem.wf Config.memSize = true) (hfit : s.ireg.toNat + x.toNat < 4096)
    (hk : k ≤ x.toNat) : (s.storeBytes s.ireg.toNat (s.firstRegs (x.toNat + 1))).mem.read (s.ireg.toNat + k) =
      s.readV (BitVec.ofNat 4 k) := by
  have hfit' : s.ireg.toNat + (s.firstRegs (x.toNat + 1)).length ≤ Config.memSize := by
    rw [length_firstRegs]; exact hfit
  rw [storeBytes_mem, Memory.read_writeBytes hfit' hwf, length_firstRegs, if_pos (by omega), Nat.add_sub_cancel_left,
    getD_firstRegs s _ _ (Nat.lt_succ_of_le hk)]

theorem read_stored_reg {y : Reg} (hwf : s.mem.wf Config.memSize = true) (hfit : s.ireg.toNat + x.toNat < 4096)
    (hy : y.toNat ≤ x.toNat) :
    (s.storeBytes s.ireg.toNat (s.firstRegs (x.toNat + 1))).mem.read (s.ireg.toNat + y.toNat) = s.readV y := by
  rw [read_stored hwf hfit hy, BitVec.ofNat_toNat, BitVec.setWidth_eq]

/-- What `FX65` leaves in each register. -/
theorem readV_loaded (x : Reg) (s : State) (y : Reg) :
    (s.writeRegsFrom 0 (s.mem.readBytes s.ireg.toNat (x.toNat + 1))).readV y =
      if y.toNat ≤ x.toNat then s.mem.read (s.ireg.toNat + y.toNat) else s.readV y := by
  have hlen : (s.mem.readBytes s.ireg.toNat (x.toNat + 1)).length = x.toNat + 1 := Memory.length_readBytes ..
  rw [readV_writeRegsFrom _ _ _ _ (by rw [hlen]; omega), hlen, Nat.zero_add, Nat.sub_zero]
  by_cases hy : y.toNat ≤ x.toNat
  · rw [if_pos hy, if_pos (by omega), Memory.getD_readBytes _ _ _ _ (by omega)]
  · rw [if_neg hy, if_neg (by omega)]

end

/-- Settles O46: the block holds the first registers, in their order. -/
theorem storeSavesRegisterBlock : Obligations.StoreSavesRegisterBlock := by
  intro x s ⟨hwf, _, _⟩ hfit
  refine ⟨_, exec_store_of_fits hfit, fun y hy => read_stored_reg hwf hfit hy, rfl, rfl⟩

/-- Settles O47: the first registers get the bytes of the block, in their order, and no other field is written. -/
theorem loadRestoresRegisterBlock : Obligations.LoadRestoresRegisterBlock := by
  intro x s hfit
  refine ⟨_, exec_load_of_fits hfit, fun y hy => ?_, ?_, ?_⟩
  · rw [readV_loaded, if_pos hy]
  · rw [writeRegsFrom_eq]
  · rw [writeRegsFrom_eq]

/-- Settles O49: what `FX65` reads is what `FX55` left, since memory and `I` are the same. -/
theorem storeThenLoadRoundTrip : Obligations.StoreThenLoadRoundTrip := by
  intro x s t u ⟨hwf, _, _⟩ hfit h hmem hireg
  cases (exec_store_of_fits hfit).symm.trans h
  refine ⟨_, exec_load_of_fits (by rwa [hireg]), fun y => ?_⟩
  rw [readV_loaded, hmem, hireg]
  exact ite_congr rfl (fun hy => read_stored_reg hwf hfit hy) fun _ => rfl

/-- Settles O50: the two stored bytes are the word at `pc`. -/
theorem storedWordIsFetchedNext : Obligations.StoredWordIsFetchedNext := by
  intro x s t k i ⟨hwf, _, _⟩ hfit hk h hfault hschedule hpc hi
  cases (exec_store_of_fits hfit).symm.trans h
  have hword : (s.storeBytes s.ireg.toNat (s.firstRegs (x.toNat + 1))).fetchWord =
      wordOfBytes (s.readV (BitVec.ofNat 4 k)) (s.readV (BitVec.ofNat 4 (k + 1))) := by
    rw [State.fetchWord, hpc, read_stored hwf hfit (by omega), Nat.add_assoc, read_stored hwf hfit hk]
  have hbound : (s.storeBytes s.ireg.toNat (s.firstRegs (x.toNat + 1))).fetchInBounds = true :=
    decide_eq_true (by rw [hpc, Config.memSize]; omega)
  rw [step_of_decode hfault hbound (hword ▸ hi), deliver_of_no_schedule hschedule]
  rfl

end Sys2Proof.Machine
end
